-- ==== Sys2Proof/Word.lean ====
section
/-! DEFINITION. The word types of the block: levels, bytes, addresses, the CMD16 word (00_scope.md R7, R9, R11). -/

namespace Sys2Proof

/-- A pin level: `true` is logic-high (1), `false` is logic-low (0) (R11). -/
abbrev Level := Bool

/-- A register, a sent byte or a received byte: `DATA_BITS` = 8 bits (R7). -/
abbrev Byte := BitVec 8

/-- A remote register address: `ADDR_BITS` = 4 bits, 0 to 15 (R7, R37). -/
abbrev Address := BitVec 4

/-- A host command word (R97). -/
abbrev Cmd16 := BitVec 16

end Sys2Proof
end

