-- ==== Sys2Proof/Config.lean ====
section
/-! DEFINITION. The configuration of the block: pin roles, the GPIO Port requests, the parameters of 00_scope.md R7
and the free values the environment supplies. -/

namespace Sys2Proof

/-- The four pin roles (R12). -/
inductive Role where
  | cs | clk | mosi | miso
  deriving DecidableEq, Repr

/-- The roles the block drives: only these have a level of their own (R26, R112). -/
inductive OutRole where
  | cs | clk | mosi
  deriving DecidableEq, Repr

/-- What the block asks of the outside: the five GPIO Port primitives, each on the roles the spec emits it for
(R110 to R114), and the blocking delay, which is no GPIO Port primitive (R13). -/
inductive Port where
  /-- `CfgOut(r)`: configureOutput (R110). -/
  | cfgOut (r : OutRole)
  /-- `CfgIn(MISO)`: configureInput (R111). -/
  | cfgIn
  /-- `Drv(r, l)`: setHigh or setLow (R112, R113). -/
  | drv (r : OutRole) (l : Level)
  /-- `Smp(MISO, ·)`: readLevel, its result supplied by the environment (R114). -/
  | smp
  /-- `Wait(t)`, in milliseconds (R119). -/
  | wait (ms : Nat)
  deriving DecidableEq, Repr

/-- `PINMAP`: the pin identifier bound to each role (R28). -/
structure PinMap where
  cs   : Nat
  miso : Nat
  mosi : Nat
  clk  : Nat
  deriving DecidableEq, Repr

/-- `FAULT_TEST`: how a fault bit is tested (R7, R173). -/
inductive FaultTest where
  /-- `(fault & mask) != 0`, the document's ruling. -/
  | bitset
  /-- `(fault & mask) == 1`, the rejected reading of the original source. -/
  | equalsOne
  deriving DecidableEq, Repr

/-- The parameters of R7 that a model may take as arguments (92_eei_decisions.md, open parameters). -/
structure Config where
  /-- `PINMAP` -/
  pins        : PinMap
  /-- `CONV_DELAY_MS` -/
  convDelayMs : Nat
  /-- `INIT_ORDER`: the seven set-up events of INIT in the order they are emitted. -/
  initOrder   : List Port
  /-- `PORT_CAN_FAIL` -/
  portCanFail : Bool
  /-- `FAULT_TEST` -/
  faultTest   : FaultTest
  /-- `MAX_COUNT`: the largest `count` of RDREGS at constructor level, `none` for no bound. -/
  maxCount    : Option Nat
  deriving DecidableEq, Repr

/-- The seven set-up events of INIT in the order the document's sentence names them: the spec's default (R141, D6). -/
def Config.defaultInitOrder : List Port :=
  [.cfgOut .cs, .cfgOut .clk, .cfgOut .mosi, .drv .cs true, .drv .clk false, .drv .mosi false, .cfgIn]

/-- The values this hardware takes (R7's value column). DESIGN CHOICE: the pin identifiers are those of the reference
usage, which the spec leaves open (log 7). -/
def Config.thisHardware : Config where
  pins        := { cs := 8, miso := 9, mosi := 10, clk := 11 }
  convDelayMs := 200
  initOrder   := Config.defaultInitOrder
  portCanFail := false
  faultTest   := .bitset
  maxCount    := none

/-- `x` stands before `y` in `l`. -/
def Config.before (x y : Port) (l : List Port) : Bool :=
  l.idxOf x < l.idxOf y

/-- A legal configuration (no operation checks it: log 22): `INIT_ORDER` is a permutation of the seven set-up events in which a role is configured
as output before it is driven (R141). -/
def Config.wf (c : Config) : Bool :=
  c.initOrder.isPerm Config.defaultInitOrder &&
  Config.before (.cfgOut .cs) (.drv .cs true) c.initOrder &&
  Config.before (.cfgOut .clk) (.drv .clk false) c.initOrder &&
  Config.before (.cfgOut .mosi) (.drv .mosi false) c.initOrder

/-- The four identifiers of `PINMAP` are pairwise distinct (R7, R28). -/
def PinMap.distinct (p : PinMap) : Bool :=
  p.cs != p.miso && p.cs != p.mosi && p.cs != p.clk && p.miso != p.mosi && p.miso != p.clk && p.mosi != p.clk

/-! The constants built into the block (R7, R89). -/

/-- `WRITE_FLAG` -/
def Config.writeFlag : Byte := 0x80
/-- `CR1_ADDR` -/
def Config.cr1Addr : Address := 1
/-- `CR1_VALUE` -/
def Config.cr1Value : Byte := 0x03
/-- `CR0_ADDR` -/
def Config.cr0Addr : Address := 0
/-- `CR0_VALUE` -/
def Config.cr0Value : Byte := 0x42
/-- The address of the Fault Register (R34, R63). -/
def Config.faultAddr : Address := 15
/-- `CJ_ADDR` -/
def Config.cjAddr : Address := 9
/-- `CJ_COUNT` -/
def Config.cjCount : Nat := 3
/-- `TC_ADDR` -/
def Config.tcAddr : Address := 12
/-- `TC_COUNT` -/
def Config.tcCount : Nat := 4
/-- `TC_SCALE` = 2^-7 degrees Celsius a unit. -/
def Config.tcScale : Rat := 0.0078125
/-- `CJ_SCALE` = 2^-6 degrees Celsius a unit. -/
def Config.cjScale : Rat := 0.015625

/-! The free values. Neither has a body: nothing can be proved of them. -/

/-- The level the environment answers at the `n`-th sample since reset, where the state lists no answer (R58; log 5). -/
opaque Config.freeLevel : Nat → Level

/-- Whether the `n`-th port event since reset fails, where `PORT_CAN_FAIL` holds and the state lists no answer (R195;
log 6). -/
opaque Config.freePortFailure : Nat → Bool

end Sys2Proof
end

