-- ==== Sys2Proof/Syntax.lean ====
section
/-! DEFINITION. The operations and functions of the block (30_encoding.md R90), the host's requests and the
responses (R92, R93), and the results of the functions. -/

namespace Sys2Proof

/-- One constructor for each row of the opcode table. Operands of the operations are naturals, so that a
request outside the operand's type can be presented and refused (R95, checks 4 to 6). -/
inductive Instr where
  /-- INIT, the document's Construction (R142). -/
  | init
  /-- SENDBYTE value (R115). -/
  | sendbyte (value : Nat)
  /-- RECVBYTE (R116). -/
  | recvbyte
  /-- WRREG address, value (R117). -/
  | wrreg (address value : Nat)
  /-- RDREGS startAddress, count (R118). -/
  | rdregs (startAddress count : Nat)
  /-- REQCONV (R144). -/
  | reqconv
  /-- RDCJ (R145). -/
  | rdcj
  /-- RDTC (R146). -/
  | rdtc
  /-- DECTC high, mid, low: a function, no operation (R160). -/
  | dectc (high mid low : Byte)
  /-- DECCJ offset, msb, lsb: a function, no operation (R166). -/
  | deccj (offset msb lsb : Byte)
  /-- FAULTSEL fault: a function, no operation (R172). -/
  | faultsel (fault : Byte)
  deriving DecidableEq, Repr

/-- The eight operations, which the host may request; the three functions "are not host requests" (R90). -/
def Instr.isOperation : Instr → Bool
  | .init => true
  | .sendbyte _ => true
  | .recvbyte => true
  | .wrreg _ _ => true
  | .rdregs _ _ => true
  | .reqconv => true
  | .rdcj => true
  | .rdtc => true
  | .dectc _ _ _ => false
  | .deccj _ _ _ => false
  | .faultsel _ => false

/-- An operation: what a request can name (R90). -/
abbrev Operation := { i : Instr // i.isOperation = true }

/-- A word of a data format: the operands of one of the three functions (R86 to R88). -/
inductive DataWord where
  | fault8 (w : BitVec 8)
  | cj24 (w : BitVec 24)
  | tc32 (w : BitVec 32)
  deriving DecidableEq, Repr

/-- DESIGN CHOICE (log 9, log 15). The words an instruction is spelled in: CMD16 for the eight operations (R97), a data
format for the three functions, and a width that no format has. -/
inductive Frame where
  | cmd16 (w : Cmd16)
  | data (d : DataWord)
  | unknown (nbits w : Nat)
  deriving DecidableEq, Repr

/-- A request of the host: a command word (R97), or an operation named directly ("a constructor of an inductive type",
R92). -/
inductive Request where
  | word (w : Cmd16)
  | call (op : Operation)
  deriving DecidableEq, Repr

/-- The eight fault kinds by the spec's identifiers (R174). -/
inductive FaultKind where
  /-- `CJ_RANGE`, bit 7 -/
  | cjRange
  /-- `TC_RANGE`, bit 6 -/
  | tcRange
  /-- `CJ_HIGH`, bit 5 -/
  | cjHigh
  /-- `CJ_LOW`, bit 4 -/
  | cjLow
  /-- `TC_HIGH`, bit 3 -/
  | tcHigh
  /-- `TC_LOW`, bit 2 -/
  | tcLow
  /-- `OVUV`, bit 1 -/
  | ovuv
  /-- `OPEN`, bit 0 -/
  | openCircuit
  deriving DecidableEq, Repr

/-- Why a request is refused (R95). -/
inductive RefuseReason where
  | notDistinctPins | alreadyInited | notInited | badAddress | badValue | badCount | reserved
  deriving DecidableEq, Repr

/-- What the host is answered (R93). -/
inductive Response where
  /-- `Done` -/
  | done
  /-- `Ok(byte)`: RECVBYTE -/
  | okByte (b : Byte)
  /-- `Ok(bytes)`: RDREGS -/
  | okBytes (bs : List Byte)
  /-- `Ok(Q)` in units of 2^-6 degrees Celsius: RDCJ -/
  | okCj (q : BitVec 15)
  /-- `Ok(Q)` in units of 2^-7 degrees Celsius: RDTC -/
  | okTc (q : BitVec 19)
  /-- `Fault(kind)`: RDTC -/
  | fault (k : FaultKind)
  /-- `Abort` -/
  | abort
  /-- `Refused(reason)` -/
  | refused (why : RefuseReason)
  deriving DecidableEq, Repr

/-- What a function returns (R160, R166, R172). It is no response: the host has requested nothing (R90). -/
inductive FunctionResult where
  /-- `Q` in units of 2^-7 degrees Celsius: DECTC -/
  | tc (q : BitVec 19)
  /-- `Q` in units of 2^-6 degrees Celsius: DECCJ -/
  | cj (q : BitVec 15)
  /-- `None` or a kind: FAULTSEL -/
  | selected (k : Option FaultKind)
  deriving DecidableEq, Repr

end Sys2Proof
end

