-- ==== Sys2Proof/WellFormed.lean ====
section
/-! DEFINITION. The operand types of the operations (30_encoding.md R90, 92_eei_decisions.md D8). -/

namespace Sys2Proof

/-- `address: 4-bit` -/
def addressOk (a : Nat) : Bool := a < 16

/-- `value: 8-bit` -/
def valueOk (v : Nat) : Bool := v < 256

/-- `count: positive integer` -/
def countOk (n : Nat) : Bool := 0 < n

/-- Every operand lies in its type. The operands of the three functions are bytes, so nothing is left to check. -/
def Instr.wellFormed : Instr → Bool
  | .init => true
  | .sendbyte v => valueOk v
  | .recvbyte => true
  | .wrreg a v => addressOk a && valueOk v
  | .rdregs a n => addressOk a && countOk n
  | .reqconv => true
  | .rdcj => true
  | .rdtc => true
  | .dectc _ _ _ => true
  | .deccj _ _ _ => true
  | .faultsel _ => true

/-- The instruction has a word: CMD16 carries a count of at most 255 (D8); every other well-formed operand fits. -/
def Instr.spelled : Instr → Bool
  | .init => true
  | .sendbyte v => valueOk v
  | .recvbyte => true
  | .wrreg a v => addressOk a && valueOk v
  | .rdregs a n => addressOk a && decide (n < 256)
  | .reqconv => true
  | .rdcj => true
  | .rdtc => true
  | .dectc _ _ _ => true
  | .deccj _ _ _ => true
  | .faultsel _ => true

end Sys2Proof
end

