-- ==== Sys2Proof/Decode.lean ====
section
/-! DEFINITION. Decoding and encoding of the words of 30_encoding.md: CMD16 (R97 to R99) and the data formats of the
three functions (R86 to R88). -/

namespace Sys2Proof

/-- Why a word is no instruction (R99; a width that no format has: log 15). -/
inductive DecodeError where
  /-- CMD16 selector `0x8` to `0xF`. -/
  | reservedSelector
  /-- A CMD16 field the operation does not have is not zero. -/
  | reservedField
  /-- No format has this width. -/
  | noFormat
  deriving DecidableEq, Repr

/-- `op`, bits 15:12 (R97). -/
def cmdOp (w : Cmd16) : BitVec 4 := w.extractLsb' 12 4

/-- `a`, bits 11:8 (R97). -/
def cmdA (w : Cmd16) : BitVec 4 := w.extractLsb' 8 4

/-- `d`, bits 7:0 (R97). -/
def cmdD (w : Cmd16) : BitVec 8 := w.extractLsb' 0 8

/-- An operation without operands: both fields must be zero (R99). -/
def decodePlain (w : Cmd16) (i : Instr) : Except DecodeError Instr :=
  if cmdA w = 0 ∧ cmdD w = 0 then .ok i else .error .reservedField

/-- The CMD16 opcode map (R98). An RDREGS word with `d = 0` decodes, to a count of 0 (R95, R99). -/
def decodeCmd16 (w : Cmd16) : Except DecodeError Instr :=
  match (cmdOp w).toNat with
  | 0 => decodePlain w .init
  | 1 => if cmdA w = 0 then .ok (.sendbyte (cmdD w).toNat) else .error .reservedField
  | 2 => decodePlain w .recvbyte
  | 3 => .ok (.wrreg (cmdA w).toNat (cmdD w).toNat)
  | 4 => .ok (.rdregs (cmdA w).toNat (cmdD w).toNat)
  | 5 => decodePlain w .reqconv
  | 6 => decodePlain w .rdcj
  | 7 => decodePlain w .rdtc
  | _ => .error .reservedSelector

/-- TC32: `{high, mid, low}` in bits 31:8; the fault byte in bits 7:0 is no operand of DECTC (R86). -/
def decodeTc32 (w : BitVec 32) : Instr :=
  .dectc (w.extractLsb' 24 8) (w.extractLsb' 16 8) (w.extractLsb' 8 8)

/-- CJ24: `{offset, msb, lsb}` (R87). -/
def decodeCj24 (w : BitVec 24) : Instr :=
  .deccj (w.extractLsb' 16 8) (w.extractLsb' 8 8) (w.extractLsb' 0 8)

/-- The function whose operands a data word carries; every data word carries some (R86 to R88). -/
def decodeData : DataWord → Instr
  | .fault8 w => .faultsel w
  | .cj24 w => decodeCj24 w
  | .tc32 w => decodeTc32 w

/-- Decoding, total on every word of every width. -/
def decode : Frame → Except DecodeError Instr
  | .cmd16 w => decodeCmd16 w
  | .data d => .ok (decodeData d)
  | .unknown _ _ => .error .noFormat

/-- The operation a request names: a named operation as it is, a command word as it decodes. -/
def Request.instr : Request → Except DecodeError Instr
  | .word w => decodeCmd16 w
  | .call op => .ok op.val

/-! The encoder, written from the same tables. -/

/-- A CMD16 word from its three fields (R97). -/
def cmdWord (op : BitVec 4) (a : BitVec 4) (d : BitVec 8) : Cmd16 := op ++ a ++ d

/-- TC32 of a thermocouple read whose fault byte is zero (R86). -/
def tcWord (high mid low : Byte) : BitVec 32 := high ++ mid ++ low ++ (0 : BitVec 8)

/-- CJ24 (R87). -/
def cjWord (offset msb lsb : Byte) : BitVec 24 := offset ++ msb ++ lsb

/-- The word of an instruction whose operands fit it. -/
def encodeWord : Instr → Frame
  | .init => .cmd16 (cmdWord 0x0 0 0)
  | .sendbyte v => .cmd16 (cmdWord 0x1 0 (BitVec.ofNat 8 v))
  | .recvbyte => .cmd16 (cmdWord 0x2 0 0)
  | .wrreg a v => .cmd16 (cmdWord 0x3 (BitVec.ofNat 4 a) (BitVec.ofNat 8 v))
  | .rdregs a n => .cmd16 (cmdWord 0x4 (BitVec.ofNat 4 a) (BitVec.ofNat 8 n))
  | .reqconv => .cmd16 (cmdWord 0x5 0 0)
  | .rdcj => .cmd16 (cmdWord 0x6 0 0)
  | .rdtc => .cmd16 (cmdWord 0x7 0 0)
  | .dectc h m l => .data (.tc32 (tcWord h m l))
  | .deccj o m l => .data (.cj24 (cjWord o m l))
  | .faultsel f => .data (.fault8 f)

/-- Encoding: `none` where no word carries the operands. -/
def encode (i : Instr) : Option Frame :=
  if i.spelled then some (encodeWord i) else none

/-- A table word of `nbits` bits as the word of its format. -/
def frameOfTable (nbits w : Nat) : Frame :=
  match nbits with
  | 8 => .data (.fault8 (BitVec.ofNat 8 w))
  | 16 => .cmd16 (BitVec.ofNat 16 w)
  | 24 => .data (.cj24 (BitVec.ofNat 24 w))
  | 32 => .data (.tc32 (BitVec.ofNat 32 w))
  | n => .unknown n w

/-- What the decoder reads from a word as the opcode table numbers its bits. A request word has no byte order: it is a
number (log 15). -/
def decodeTableWord (nbits w : Nat) : Option Instr :=
  match decode (frameOfTable nbits w) with
  | .ok i => some i
  | .error _ => none

end Sys2Proof
end

