-- ==== Sys2Proof/Machine/State.lean ====
section
/-! DEFINITION. The state of the block (10_state.md), the port events, the reasons a step can stop, and reset (R40, R220). -/

namespace Sys2Proof.Machine

/-- Port events, the trace alphabet (R13). CfgIn and Smp exist for MISO only (R111, R114), Drv and CfgOut for the
three driven roles only (R110, R112). -/
inductive Event where
  | cfgOut (r : OutRole)
  | cfgIn
  | drv (r : OutRole) (l : Level)
  /-- `Smp(MISO, b)`: `b` is the environment's answer. -/
  | smp (b : Level)
  | wait (ms : Nat)
  deriving DecidableEq, Repr

/-- The direction of a pin (R27). -/
inductive Dir where
  | unconf | out | input
  deriving DecidableEq, Repr

/-- `DIR`: one direction for each role (R27). `none` is the spec's "no defined value" after an Abort (R195; log 1). -/
structure Dirs where
  cs   : Option Dir
  clk  : Option Dir
  mosi : Option Dir
  miso : Option Dir
  deriving DecidableEq, Repr

/-- `LVL`: the level last driven on each driven role (R26). `none` is the spec's "without a value": before INIT
(R40, R220) and after an Abort (R195; log 1). -/
structure Lvls where
  cs   : Option Level
  clk  : Option Level
  mosi : Option Level
  deriving DecidableEq, Repr

/-- `SEQ`, the sequencer position: `Idle`, or the operation in progress and the index of its next port event (R23). -/
inductive Seq where
  | idle
  | running (op : Instr) (k : Nat)
  deriving DecidableEq, Repr

/-- Everything the spec gives the block, the host's requests and responses, and the environment's answers. -/
structure State where
  /-- (a) configuration, fixed for the life of the block: PINMAP and the parameters of R7 (R20). -/
  config   : Config
  /-- (b) persistent state (R20). -/
  dir      : Dirs
  lvl      : Lvls
  /-- `INITED`: construction has completed (R25). -/
  inited   : Bool
  /-- (c) transient state (R20). `BUSY`: an operation is in progress (R25). -/
  busy     : Bool
  seq      : Seq
  /-- `SR`, the receive accumulator (R21). `none` here and below is the spec's "no value" (R22; log 1). -/
  sr       : Option Byte
  /-- `BITCNT`: bit cells of the current byte transfer still to do, 0 to 8 (R21). -/
  bitcnt   : Option Nat
  /-- `BYTECNT`: bytes of the current RDREGS still to receive (R21). -/
  bytecnt  : Option Nat
  /-- `RB`: the bytes of the block read received so far, `RB[k]` at index `k` (R21). -/
  rb       : List Byte
  /-- `RAW`: the value bytes before the shift (R21). -/
  raw      : Option (BitVec 24)
  /-- `Q`: the decoded fixed-point integer (R21). -/
  q        : Option (BitVec 19)
  /-- `FLT`: the fault byte (R21). -/
  flt      : Option Byte
  /-- `DLY`: the remaining part of the conversion delay, in milliseconds (R21, R203). -/
  dly      : Option Nat
  /-- The fault that an Abort records and nothing clears (R195; log 6). -/
  aborted  : Bool
  /-- Every port event since reset, oldest first (R39; log 12). -/
  trace    : List Event
  /-- The host's requests not yet taken, the next one first (R92; log 2). -/
  requests  : List Request
  /-- Every response handed to the host since reset, oldest first (R93; log 12). -/
  responses : List Response
  /-- The levels the environment answers at the next samples, the next one first (R58; log 5). -/
  answers   : List Level
  /-- The samples taken since reset: the index of the free level used where `answers` is empty (log 5). -/
  samples   : Nat
  /-- Whether each of the next port events fails, read only where `PORT_CAN_FAIL` holds (R195; log 6). -/
  failures  : List Bool
  /-- The port events tried since reset where `PORT_CAN_FAIL` holds: the index of the free failure used where
  `failures` is empty (log 6). -/
  attempts  : Nat
  /-- The model's own, and no request of the host (R90): a function's operands put before the block from outside
  (log 9). -/
  probe     : Option DataWord
  /-- The model's own: every result of a function used on its own since reset, oldest first (log 9). -/
  results   : List FunctionResult
  deriving DecidableEq, Repr

/-- The reasons the machine stops. -/
inductive Fault where
  /-- Raised by every operation and by every step after an Abort: "no further operation of the block has a defined
  meaning: a model records a fault that is never cleared" (R195; log 6). Safe. -/
  | portAborted
  deriving DecidableEq, Repr

/-- The reasons a request has no step. -/
inductive Refusal where
  /-- Raised by an arm of `exec` whose instruction has no meaning yet. Safe. -/
  | notModelled (mnemonic : String)
  /-- Raised by every operation presented while BUSY = 1: "the host has no move: it cannot issue, cancel or
  interrupt" (R94). Unsafe: a second caller of the real driver would corrupt the transfer (log 4). -/
  | hostHasNoMove
  deriving DecidableEq, Repr

/-- The state before construction (R40, R220). The fields the model adds start empty (DESIGN CHOICE, log 5, log 6,
log 9). -/
def State.reset : State where
  config    := Config.thisHardware
  dir       := { cs := some .unconf, clk := some .unconf, mosi := some .unconf, miso := some .unconf }
  lvl       := { cs := none, clk := none, mosi := none }
  inited    := false
  busy      := false
  seq       := .idle
  sr        := none
  bitcnt    := none
  bytecnt   := none
  rb        := []
  raw       := none
  q         := none
  flt       := none
  dly       := none
  aborted   := false
  trace     := []
  requests  := []
  responses := []
  answers   := []
  samples   := 0
  failures  := []
  attempts  := 0
  probe     := none
  results   := []

end Sys2Proof.Machine
end

