-- ==== Sys2Proof/Machine/Operands.lean ====
section
/-! DEFINITION. Every place bits are assembled (30_encoding.md R91) and the fixed-point decoding of 42_decoder.md. -/

namespace Sys2Proof.Machine

/-- The write command byte `0x80 | zext_8(address)` (R82). -/
def writeCommand (a : Address) : Byte := Config.writeFlag ||| a.setWidth 8

/-- The read command byte `zext_8(startAddress)` (R82). -/
def readCommand (a : Address) : Byte := a.setWidth 8

/-- The bit indexes of a byte in wire order, most significant first (R51). -/
def wireOrder : List Nat := [7, 6, 5, 4, 3, 2, 1, 0]

/-- The bits of a byte in the order they are on the wire (R81). -/
def wireBits (v : Byte) : List Level := wireOrder.map v.getLsbD

/-- One receive step of the accumulator: `SR <- {SR[6:0], b}` (R116). -/
def shiftIn (sr : Byte) (b : Level) : Byte := sr.extractLsb' 0 7 ++ BitVec.ofBool b

/-- The byte that eight received levels build from a cleared accumulator, first level first (R116). -/
def byteOfLevels (ls : List Level) : Byte := ls.foldl shiftIn 0

/-- The thermocouple raw value `{high, mid, low}` (R160). -/
def tcRaw (high mid low : Byte) : BitVec 24 := high ++ mid ++ low

/-- `Q <- RAW[23:5]`: a logical shift by `TC_SHIFT` = 5, the low bits dropped (R160, R164). -/
def tcQ (raw : BitVec 24) : BitVec 19 := raw.extractLsb' 5 19

/-- The cold-junction raw value `{msb, lsb}`, zero-extended to 24 bits (R166). -/
def cjRaw (msb lsb : Byte) : BitVec 24 := (msb ++ lsb).setWidth 24

/-- `Q <- zext_15(offset) + zext_15(RAW[15:2])`: a logical shift by `CJ_SHIFT` = 2, then the unsigned sum (R166). -/
def cjQ (offset : Byte) (raw : BitVec 24) : BitVec 15 :=
  offset.setWidth 15 + (raw.extractLsb' 2 14).setWidth 15

/-- DECTC (R160). -/
def decTc (high mid low : Byte) : BitVec 19 := tcQ (tcRaw high mid low)

/-- DECCJ (R166). -/
def decCj (offset msb lsb : Byte) : BitVec 15 := cjQ offset (cjRaw msb lsb)

/-- The thermocouple temperature in degrees Celsius, exact (R161). -/
def tcCelsius (q : BitVec 19) : Rat := q.toNat * Config.tcScale

/-- The cold-junction temperature in degrees Celsius, exact (R169). -/
def cjCelsius (q : BitVec 15) : Rat := q.toNat * Config.cjScale

/-- The address and value operands of an admitted request, which lie in their types. -/
def addressOf (a : Nat) : Address := BitVec.ofNat 4 a

def valueOf (v : Nat) : Byte := BitVec.ofNat 8 v

end Sys2Proof.Machine
end

