-- ==== Sys2Proof/Machine/Flags.lean ====
section
/-! DEFINITION. The fault bits and the fault selector (10_state.md R34, 42_decoder.md R172 to R174) and the block's two
status flags INITED and BUSY (10_state.md R25). The block has no condition codes. -/

namespace Sys2Proof.Machine

/-- The bit of the fault byte that carries the kind (R34, R174). -/
def faultBit : FaultKind → Nat
  | .cjRange => 7
  | .tcRange => 6
  | .cjHigh => 5
  | .cjLow => 4
  | .tcHigh => 3
  | .tcLow => 2
  | .ovuv => 1
  | .openCircuit => 0

/-- The cause code, the single-bit mask (R174, R191). -/
def faultMask : FaultKind → Byte
  | .cjRange => 0x80
  | .tcRange => 0x40
  | .cjHigh => 0x20
  | .cjLow => 0x10
  | .tcHigh => 0x08
  | .tcLow => 0x04
  | .ovuv => 0x02
  | .openCircuit => 0x01

/-- The name a FaultError carries, verbatim (R174). -/
def faultName : FaultKind → String
  | .cjRange => "Cold Junction Out-of-Range"
  | .tcRange => "Thermocouple Out-of-Range"
  | .cjHigh => "Cold-Junction High"
  | .cjLow => "Cold-Junction Low"
  | .tcHigh => "Thermocouple Temp High"
  | .tcLow => "Thermocouple Temp Low"
  | .ovuv => "Over/Undervoltage"
  | .openCircuit => "Thermocouple Open-Circuit"

/-- The kinds in the order they are tested, bit 7 first (R172). -/
def faultPriority : List FaultKind :=
  [.cjRange, .tcRange, .cjHigh, .cjLow, .tcHigh, .tcLow, .ovuv, .openCircuit]

/-- The test of one fault bit (R173). -/
def faultTest (t : FaultTest) (fault mask : Byte) : Bool :=
  match t with
  | .bitset => fault &&& mask != 0
  | .equalsOne => fault &&& mask == 1

/-- FAULTSEL: the first kind whose bit is found set, in descending bit order (R172). -/
def faultSel (t : FaultTest) (fault : Byte) : Option FaultKind :=
  faultPriority.find? fun k => faultTest t fault (faultMask k)

/-- `INITED <- 1` (R142). -/
def State.setInited (s : State) : State := { s with inited := true }

/-- Accepting a request sets BUSY (R25). -/
def State.setBusy (s : State) : State := { s with busy := true }

/-- Producing the response clears BUSY (R25). -/
def State.clearBusy (s : State) : State := { s with busy := false }

end Sys2Proof.Machine
end

