-- ==== Sys2Proof/Machine/Ops.lean ====
section
/-! DEFINITION. The shared operations: the environment's answers, emitting a port event (40_channel.md R110 to R119),
the register transfers of the pseudocode, admission (30_encoding.md R95), accepting a request, the responses, and the
two exceptions FaultError and Abort (60_exceptions.md R190 to R200). -/

namespace Sys2Proof.Machine

/-! ### The environment -/

/-- The level the environment answers at the `j`-th sample from now: the listed answer, or a free level (R58). -/
def State.levelAt (s : State) (j : Nat) : Level :=
  match s.answers[j]? with
  | some b => b
  | none => Config.freeLevel (s.samples + j)

/-- The levels of the next `n` samples, first to last. -/
def State.levels (s : State) (n : Nat) : List Level := (List.range n).map s.levelAt

/-- One sample has been taken. -/
def State.spendAnswer (s : State) : State :=
  { s with answers := s.answers.tail, samples := s.samples + 1 }

/-- Whether the `j`-th port event from now fails, where the port can fail: the listed answer, or a free value (R195). -/
def State.failsAt (s : State) (j : Nat) : Bool :=
  match s.failures[j]? with
  | some b => b
  | none => Config.freePortFailure (s.attempts + j)

/-- One port event has been tried. -/
def State.spendFailure (s : State) : State :=
  { s with failures := s.failures.tail, attempts := s.attempts + 1 }

/-! ### Port events -/

/-- `DIR[r] <- d` for a driven role (R110). -/
def Dirs.setOut (d : Dirs) : OutRole → Dirs
  | .cs => { d with cs := some .out }
  | .clk => { d with clk := some .out }
  | .mosi => { d with mosi := some .out }

/-- `LVL[r] <- l` (R112, R113). -/
def Lvls.set (v : Lvls) (r : OutRole) (l : Level) : Lvls :=
  match r with
  | .cs => { v with cs := some l }
  | .clk => { v with clk := some l }
  | .mosi => { v with mosi := some l }

/-- `SEQ <- (op, k+1)` (R24). -/
def Seq.advance : Seq → Seq
  | .idle => .idle
  | .running op k => .running op (k + 1)

/-- An event has been emitted: it is appended to the trace (R39) and the sequencer moves on (R24). -/
def State.record (s : State) (e : Event) : State :=
  { s with trace := s.trace ++ [e], seq := s.seq.advance }

/-- A port request takes its effect (R110 to R114, R119). -/
def State.performPort (p : Port) (s : State) : State :=
  match p with
  | .cfgOut r => { s with dir := s.dir.setOut r }.record (.cfgOut r)
  | .cfgIn => { s with dir := { s.dir with miso := some .input } }.record .cfgIn
  | .drv r l => { s with lvl := s.lvl.set r l }.record (.drv r l)
  | .smp => s.spendAnswer.record (.smp (s.levelAt 0))
  | .wait t => s.record (.wait t)

/-- A port event fails: no pin level and no direction has a defined value any more, and the fault is recorded (R195). The
failing event is not on the trace (DEDUCED, log 6). -/
def State.failPort (s : State) : State :=
  { s with
    aborted := true
    dir := { cs := none, clk := none, mosi := none, miso := none }
    lvl := { cs := none, clk := none, mosi := none } }

/-- `emit e` (R14): the event takes effect, or fails instead of taking effect: "any port event may fail" where the port can
fail, the delay among them (R119, R195; D14). -/
def emit (p : Port) (s : State) : State :=
  if s.config.portCanFail then
    if s.failsAt 0 then s.spendFailure.failPort else s.spendFailure.performPort p
  else s.performPort p

/-! ### The pseudocode's lines -/

/-- One line of the pseudocode of R115 to R118 and R142 to R146. -/
inductive Micro where
  /-- `emit` a set-up event, a drive or the delay. -/
  | port (p : Port)
  /-- `b <- sample(MISO) ; SR <- (SR << 1)[7:0] | b` -/
  | sample
  /-- `BITCNT <- n` -/
  | setBitcnt (n : Nat)
  /-- `BITCNT <- BITCNT - 1` -/
  | decBitcnt
  /-- `SR <- 0x00` -/
  | clearSr
  /-- `BYTECNT <- n` -/
  | setBytecnt (n : Nat)
  /-- `BYTECNT <- BYTECNT - 1` -/
  | decBytecnt
  /-- `RB[k] <- SR` for the next `k` -/
  | storeRb
  /-- `DLY <- CONV_DELAY_MS` -/
  | setDly (ms : Nat)
  /-- The delay has elapsed: nothing of it remains (R203; DEDUCED, log 11; in which move of the sequencer: log 2). -/
  | expireDly
  /-- `Q <- DECTC(RB[0], RB[1], RB[2])`, which writes `RAW` (R160) -/
  | decodeTc
  /-- `Q <- DECCJ(RB[0], RB[1], RB[2])`, which writes `RAW` (R166) -/
  | decodeCj
  /-- `FLT <- RB[3]` -/
  | loadFlt
  /-- `INITED <- 1` -/
  | setInited
  deriving DecidableEq, Repr

/-- The port request a line makes, if any. -/
def microPort : Micro → Option Port
  | .port p => some p
  | .sample => some .smp
  | _ => none

/-- The function DECTC writes RAW and Q (R160). -/
def State.writeTc (s : State) (high mid low : Byte) : State :=
  { s with raw := some (tcRaw high mid low), q := some (decTc high mid low) }

/-- The function DECCJ writes RAW and Q; Q's 15 bits stand in the 19-bit register (R21, R166). -/
def State.writeCj (s : State) (offset msb lsb : Byte) : State :=
  { s with raw := some (cjRaw msb lsb), q := some ((decCj offset msb lsb).setWidth 19) }

/-- One line. A register without a value gives none (R22): no line of a program meets that case (log 21). -/
def runMicro (m : Micro) (s : State) : State :=
  match m with
  | .port p => emit p s
  | .sample => { emit .smp s with sr := s.sr.map (shiftIn · (s.levelAt 0)) }
  | .setBitcnt n => { s with bitcnt := some n }
  | .decBitcnt => { s with bitcnt := s.bitcnt.map (· - 1) }
  | .clearSr => { s with sr := some 0 }
  | .setBytecnt n => { s with bytecnt := some n }
  | .decBytecnt => { s with bytecnt := s.bytecnt.map (· - 1) }
  | .storeRb => { s with rb := s.rb ++ s.sr.toList }
  | .setDly t => { s with dly := some t }
  | .expireDly => { s with dly := some 0 }
  | .decodeTc => match s.rb with
    | high :: mid :: low :: _ => s.writeTc high mid low
    | _ => s
  | .decodeCj => match s.rb with
    | offset :: msb :: lsb :: _ => s.writeCj offset msb lsb
    | _ => s
  | .loadFlt => { s with flt := s.rb[3]? }
  | .setInited => s.setInited

/-- The lines of a program in order; a failing port event ends it at once, and no later line runs (R195). -/
def runProgram : List Micro → State → State
  | [], s => s
  | m :: ms, s => if (runMicro m s).aborted then runMicro m s else runProgram ms (runMicro m s)

/-! ### Requests and responses -/

/-- The transient registers have no value (R22). -/
def State.clearTransients (s : State) : State :=
  { s with
    sr := none, bitcnt := none, bytecnt := none, rb := [], raw := none, q := none, flt := none, dly := none }

/-- Accepting a request: `SEQ <- (op, 0)`, BUSY set, the transient registers without a value (R22, R24, R25). -/
def State.accept (op : Instr) (s : State) : State :=
  { s.clearTransients.setBusy with seq := .running op 0 }

/-- An operation ends: `SEQ <- Idle`, BUSY cleared, the transient registers without a value (R24, R25, R40; log 10). -/
def State.release (s : State) : State :=
  { s.clearTransients.clearBusy with seq := .idle }

/-- A response is handed to the host (R92, R93). -/
def State.answer (r : Response) (s : State) : State :=
  { s with responses := s.responses ++ [r] }

/-- A function used on its own returns; the host is handed nothing (R90; log 9). -/
def State.yield (r : FunctionResult) (s : State) : State :=
  { s with results := s.results ++ [r] }

/-- An operation ends with its response. -/
def State.respond (r : Response) (s : State) : State := s.release.answer r

/-- Taking a FaultError (R192, R199): the block is idle, the temperature is discarded with the transient registers, and
`Fault(kind)` is handed to the host in place of `Ok(Q)`. Nothing is saved, no mode and no mask changes, no vector is
fetched. There is no trap return: the next request is accepted as after any other response (R200). -/
def State.takeFaultError (k : FaultKind) (s : State) : State := s.respond (.fault k)

/-- Taking an Abort: the operation ends at once with that response, and nothing is restored (R195, R200; log 6). -/
def State.takeAbort (s : State) : State := s.respond .abort

/-- The end of an operation: the Abort if a port event failed, else the operation's own ending. -/
def State.conclude (ending : State → State) (s : State) : State :=
  if s.aborted then s.takeAbort else ending s

/-- The admission checks in the order of R95; the first that fails gives its reason. -/
def admission (op : Instr) (s : State) : Option RefuseReason :=
  match op with
  | .init =>
    if !s.config.pins.distinct then some .notDistinctPins
    else if s.inited then some .alreadyInited
    else none
  | .sendbyte v =>
    if !s.inited then some .notInited
    else if !valueOk v then some .badValue
    else none
  | .wrreg a v =>
    if !s.inited then some .notInited
    else if !addressOk a then some .badAddress
    else if !valueOk v then some .badValue
    else none
  | .rdregs a n =>
    if !s.inited then some .notInited
    else if !addressOk a then some .badAddress
    else if !countOk n || s.config.maxCount.any (· < n) then some .badCount
    else none
  | .recvbyte => if !s.inited then some .notInited else none
  | .reqconv => if !s.inited then some .notInited else none
  | .rdcj => if !s.inited then some .notInited else none
  | .rdtc => if !s.inited then some .notInited else none
  | .dectc _ _ _ => none
  | .deccj _ _ _ => none
  | .faultsel _ => none

/-- A refused request: no port event and no change of any state; its response is `Refused(reason)` (R96; log 3). -/
def State.refuse (why : RefuseReason) (s : State) : State := s.answer (.refused why)

/-- One request for an operation, from admission to response (R92). After an Abort nothing has a meaning (R195), and
while an operation is in progress the host has no move (R94; log 4). DESIGN CHOICE: the whole operation is one step of the
host's interface (log 2). -/
def performOp (op : Instr) (program : List Micro) (ending : State → State) (s : State) :
    Host.Outcome State Fault Refusal :=
  if s.aborted then .fault .portAborted
  else if s.busy then .refused .hostHasNoMove
  else match admission op s with
    | some why => .next (s.refuse why)
    | none => .next ((runProgram program (s.accept op)).conclude ending)

/-- A word that decodes to no operation is refused with `reserved`, whatever INITED is (R95, R99). -/
def refuseReserved (s : State) : Host.Outcome State Fault Refusal :=
  if s.busy then .refused .hostHasNoMove else .next (s.refuse .reserved)

/-! ### The pads -/

/-- The level the block puts on a pad: `LVL[r]` whenever `DIR[r] = out` (R26, R110). -/
def State.padLevel (s : State) : OutRole → Option Level
  | .cs => if s.dir.cs = some .out then s.lvl.cs else none
  | .clk => if s.dir.clk = some .out then s.lvl.clk else none
  | .mosi => if s.dir.mosi = some .out then s.lvl.mosi else none

end Sys2Proof.Machine
end

