-- ==== Sys2Proof/Machine/Decoder.lean ====
section
/-! DEFINITION. The three combinational functions DECTC, DECCJ and FAULTSEL (42_decoder.md R160, R166, R172): they emit
no port event, are subject to no admission check and cannot fail. DESIGN CHOICE: used on their own, which no host can
request (R90), they yield their result in every state (log 9). -/

namespace Sys2Proof.Machine

/-- DECTC (R160). -/
def execDectc (high mid low : Byte) (s : State) : Host.Outcome State Fault Refusal :=
  .next ((s.writeTc high mid low).yield (.tc (decTc high mid low)))

/-- DECCJ (R166). -/
def execDeccj (offset msb lsb : Byte) (s : State) : Host.Outcome State Fault Refusal :=
  .next ((s.writeCj offset msb lsb).yield (.cj (decCj offset msb lsb)))

/-- FAULTSEL (R172). -/
def execFaultsel (fault : Byte) (s : State) : Host.Outcome State Fault Refusal :=
  .next (s.yield (.selected (faultSel s.config.faultTest fault)))

end Sys2Proof.Machine
end

