-- ==== Sys2Proof/Machine/Channel.lean ====
section
/-! DEFINITION. The channel operations SENDBYTE, RECVBYTE, WRREG and RDREGS (40_channel.md R115 to R118): each is its
pseudocode as a program of lines, and its ending. -/

namespace Sys2Proof.Machine

/-- SENDBYTE's pseudocode (R115): the bit cells of a byte, bit 7 first. -/
def sendByteProgram (v : Byte) : List Micro :=
  .setBitcnt 8 :: wireOrder.flatMap fun i =>
    [.port (.drv .clk true), .port (.drv .mosi (v.getLsbD i)), .port (.drv .clk false), .decBitcnt]

/-- RECVBYTE's pseudocode (R116). -/
def recvByteProgram : List Micro :=
  .clearSr :: .setBitcnt 8 :: wireOrder.flatMap fun _ =>
    [.port (.drv .clk true), .sample, .port (.drv .clk false), .decBitcnt]

/-- WRREG's pseudocode (R117). -/
def wrregProgram (a : Address) (v : Byte) : List Micro :=
  [.port (.drv .cs false)] ++ sendByteProgram (writeCommand a) ++ sendByteProgram v ++ [.port (.drv .cs true)]

/-- The receive loop of RDREGS: `for k = 0 to count-1` (R118). -/
def recvBytesProgram : Nat → List Micro
  | 0 => []
  | n + 1 => recvByteProgram ++ [.storeRb, .decBytecnt] ++ recvBytesProgram n

/-- RDREGS's pseudocode (R118). -/
def rdregsProgram (start : Address) (n : Nat) : List Micro :=
  [.port (.drv .cs false)] ++ sendByteProgram (readCommand start) ++ [.setBytecnt n] ++ recvBytesProgram n ++
    [.port (.drv .cs true)]

/-- `respond Done` -/
def endDone (s : State) : State := s.respond .done

/-- `respond Ok(SR)`; SR has a value here (log 21). -/
def endRecvbyte (s : State) : State :=
  match s.sr with
  | some b => s.respond (.okByte b)
  | none => s.release

/-- `respond Ok([RB[0], ..., RB[count-1]])` -/
def endRdregs (s : State) : State := s.respond (.okBytes s.rb)

/-- SENDBYTE (R115). -/
def execSendbyte (value : Nat) (s : State) : Host.Outcome State Fault Refusal :=
  performOp (.sendbyte value) (sendByteProgram (valueOf value)) endDone s

/-- RECVBYTE (R116). -/
def execRecvbyte (s : State) : Host.Outcome State Fault Refusal :=
  performOp .recvbyte recvByteProgram endRecvbyte s

/-- WRREG (R117). -/
def execWrreg (address value : Nat) (s : State) : Host.Outcome State Fault Refusal :=
  performOp (.wrreg address value) (wrregProgram (addressOf address) (valueOf value)) endDone s

/-- RDREGS (R118). -/
def execRdregs (startAddress count : Nat) (s : State) : Host.Outcome State Fault Refusal :=
  performOp (.rdregs startAddress count) (rdregsProgram (addressOf startAddress) count) endRdregs s

end Sys2Proof.Machine
end

