-- ==== Sys2Proof/Machine/Device.lean ====
section
/-! DEFINITION. The device operations INIT, REQCONV, RDCJ and RDTC (41_device.md R140 to R146). -/

namespace Sys2Proof.Machine

/-- INIT's pseudocode (R142): the set-up events in `INIT_ORDER` (R141), then the mode write. -/
def initProgram (c : Config) : List Micro :=
  c.initOrder.map .port ++ wrregProgram Config.cr1Addr Config.cr1Value ++ [.setInited]

/-- REQCONV's pseudocode (R144). -/
def reqconvProgram (c : Config) : List Micro :=
  wrregProgram Config.cr0Addr Config.cr0Value ++ [.setDly c.convDelayMs, .port (.wait c.convDelayMs), .expireDly]

/-- RDCJ's pseudocode (R145). -/
def rdcjProgram (c : Config) : List Micro :=
  reqconvProgram c ++ rdregsProgram Config.cjAddr Config.cjCount ++ [.decodeCj]

/-- RDTC's pseudocode (R146). -/
def rdtcProgram (c : Config) : List Micro :=
  reqconvProgram c ++ rdregsProgram Config.tcAddr Config.tcCount ++ [.decodeTc, .loadFlt]

/-- `respond Ok(Q)`, the 15-bit value (R145); Q has a value here (log 21). -/
def endRdcj (s : State) : State :=
  match s.q with
  | some q => s.respond (.okCj (q.setWidth 15))
  | none => s.release

/-- `k <- FAULTSEL(FLT) ; if k != None: raise FaultError(k) ; respond Ok(Q)` (R146). -/
def endRdtc (s : State) : State :=
  match s.q, s.flt with
  | some q, some fault => match faultSel s.config.faultTest fault with
    | some k => s.takeFaultError k
    | none => s.respond (.okTc q)
  | _, _ => s.release

/-- INIT (R142). -/
def execInit (s : State) : Host.Outcome State Fault Refusal :=
  performOp .init (initProgram s.config) endDone s

/-- REQCONV (R144). -/
def execReqconv (s : State) : Host.Outcome State Fault Refusal :=
  performOp .reqconv (reqconvProgram s.config) endDone s

/-- RDCJ (R145). -/
def execRdcj (s : State) : Host.Outcome State Fault Refusal :=
  performOp .rdcj (rdcjProgram s.config) endRdcj s

/-- RDTC (R146). -/
def execRdtc (s : State) : Host.Outcome State Fault Refusal :=
  performOp .rdtc (rdtcProgram s.config) endRdtc s

end Sys2Proof.Machine
end

