-- ==== Sys2Proof/Machine/Sequencer.lean ====
section
/-! DEFINITION. The sequencer, one port event at a time (10_state.md R23, R24; 92_eei_decisions.md D16). -/

namespace Sys2Proof.Machine

/-- The program of an operation. The three functions have no events and never stand in SEQ. -/
def programOf (c : Config) : Instr → List Micro
  | .init => initProgram c
  | .sendbyte v => sendByteProgram (valueOf v)
  | .recvbyte => recvByteProgram
  | .wrreg a v => wrregProgram (addressOf a) (valueOf v)
  | .rdregs a n => rdregsProgram (addressOf a) n
  | .reqconv => reqconvProgram c
  | .rdcj => rdcjProgram c
  | .rdtc => rdtcProgram c
  | .dectc _ _ _ => []
  | .deccj _ _ _ => []
  | .faultsel _ => []

/-- The ending of an operation. -/
def endingOf : Instr → State → State
  | .init => endDone
  | .sendbyte _ => endDone
  | .recvbyte => endRecvbyte
  | .wrreg _ _ => endDone
  | .rdregs _ _ => endRdregs
  | .reqconv => endDone
  | .rdcj => endRdcj
  | .rdtc => endRdtc
  | .dectc _ _ _ => State.release
  | .deccj _ _ _ => State.release
  | .faultsel _ => State.release

/-- The port requests of a program in order: an operation's event list less the sampled levels (R24). -/
def portsOf (ms : List Micro) : List Port := ms.filterMap microPort

/-- What is left of a program after its first `k` port events. -/
def afterPorts : Nat → List Micro → List Micro
  | 0, ms => ms
  | _ + 1, [] => []
  | k + 1, m :: ms => if (microPort m).isSome then afterPorts k ms else afterPorts (k + 1) ms

/-- The lines of one move: those before the next port event, the event's own, and, where it is the last one, those after it,
so that INITED is set by INIT "at its last event" (R25). DESIGN CHOICE (log 2): which move runs the lines between two events is
open (R24, D16); the later one does. So DLY falls to 0 in the move of the `Wait` event in REQCONV, whose last event it is, and in
RDCJ and RDTC in the move after it, that of the read's `Drv(CS,0)`; R203 gives no event for it (log 2, log 11). -/
def moveLines : List Micro → List Micro
  | [] => []
  | m :: ms => if (microPort m).isSome ∧ portsOf ms ≠ [] then [m] else m :: moveLines ms

/-- One move of the sequencer at `SEQ = (op, k)`: the event with index `k`, or, where `k` has reached the number of events,
the response (R24); a failing event ends the operation at once (R195). DESIGN CHOICE (log 2): the response is a move of its own,
with no event; R24 says when it is produced, not in which move. -/
def tick (op : Instr) (k : Nat) (s : State) : State :=
  if (portsOf (programOf s.config op)).length ≤ k then s.conclude (endingOf op)
  else (runProgram (moveLines (afterPorts k (programOf s.config op))) s).conclude id

end Sys2Proof.Machine
end

