-- ==== Sys2Proof/Machine/Dispatch.lean ====
section
/-! DEFINITION. One arm for each instruction. -/

namespace Sys2Proof.Machine

def exec (i : Instr) (s : State) : Host.Outcome State Fault Refusal :=
  match i with
  | .init => Sys2Proof.Machine.execInit s
  | .sendbyte value => Sys2Proof.Machine.execSendbyte value s
  | .recvbyte => Sys2Proof.Machine.execRecvbyte s
  | .wrreg address value => Sys2Proof.Machine.execWrreg address value s
  | .rdregs startAddress count => Sys2Proof.Machine.execRdregs startAddress count s
  | .reqconv => Sys2Proof.Machine.execReqconv s
  | .rdcj => Sys2Proof.Machine.execRdcj s
  | .rdtc => Sys2Proof.Machine.execRdtc s
  | .dectc high mid low => Sys2Proof.Machine.execDectc high mid low s
  | .deccj offset msb lsb => Sys2Proof.Machine.execDeccj offset msb lsb s
  | .faultsel fault => Sys2Proof.Machine.execFaultsel fault s

end Sys2Proof.Machine
end

