-- ==== Sys2Proof/Machine/Serve.lean ====
section
/-! DEFINITION. What an idle block takes up: a request of the host (30_encoding.md R92, R99), or, in the model alone, a use
of a function (R90; log 9). -/

namespace Sys2Proof.Machine

/-- The next request is served: the operation it names is run, or a reserved word refused (R99). -/
def serve (r : Request) (s : State) : Host.Outcome State Fault Refusal :=
  match r.instr with
  | .ok i => exec i s
  | .error _ => refuseReserved s

/-- DESIGN CHOICE (log 9). A function used on its own: its meaning is run, and it holds no state between uses
(42_decoder.md), so RAW and Q are without a value again (R22). -/
def evaluate (d : DataWord) (s : State) : Host.Outcome State Fault Refusal :=
  match exec (decodeData d) s with
  | .next t => .next t.clearTransients
  | .fault f => .fault f
  | .refused r => .refused r

/-- DESIGN CHOICE (log 9, log 14, log 15). A word as the opcode table spells it is put before an idle block: a command word as the
host's next request, a data word as the next use of its function. A width that no format has is no word, and puts nothing. -/
def State.present (s : State) : Frame → State
  | .cmd16 w => { s with requests := .word w :: s.requests, probe := none, busy := false, seq := .idle }
  | .data d => { s with probe := some d, busy := false, seq := .idle }
  | .unknown _ _ => s

end Sys2Proof.Machine
end

