-- ==== Sys2Proof/Machine/Step.lean ====
section
/-! DEFINITION. One step: an operation in progress moves on by one port event; an idle block takes the next request and
runs it to its response, or waits where there is none (10_state.md R24, 30_encoding.md R92, 70_reset_and_hazards.md R221). -/

namespace Sys2Proof.Machine

/-- One step. A use of a function put before the model comes before the host's requests (DESIGN CHOICE, log 9); where none is,
as in every run of the block itself, the step is the host's next request (R92). -/
def step (s : State) : Host.Outcome State Fault Refusal :=
  if s.aborted then .fault .portAborted
  else match s.seq with
    | .running op k => .next (tick op k s)
    | .idle => match s.probe with
      | some d => evaluate d { s with probe := none }
      | none => match s.requests with
        | [] => .next s
        | r :: rest => serve r { s with requests := rest }

/-- The word stands where the next step takes it, and the block is ready to take it. The block fetches nothing; a
program is what the host presents (R23, R221; log 14). -/
def State.withFetchWord (s : State) (nbits w : Nat) : State := s.present (frameOfTable nbits w)

end Sys2Proof.Machine
end

