-- ==== Sys2Proof/Machine/Remote.lean ====
section
/-! DEFINITION. The remote register space (10_state.md R37, 20_memory.md R50, R63): the one address space of the hardware.
It is no state of the block (R40, R50; log 13): this file holds the form in which a register space is written down, and the three
premises on the chip that a claim may name (R59 to R61). -/

namespace Sys2Proof.Machine

/-- Contents of the remote register space: the listed addresses strictly rising; an address not listed has no known
content, since nothing is said of it before it is written (R40). -/
abbrev RemoteMemory := List Host.Cell

/-- The addresses are strictly rising. No entry can equal what an unlisted address reads as, which is no value. -/
def remoteRising : RemoteMemory → Bool
  | [] => true
  | [_] => true
  | (a, _) :: (b, w) :: m => decide (a < b) && remoteRising ((b, w) :: m)

/-- The canonical form: strictly rising addresses, all of them among the 16 locations (R37). -/
def RemoteMemory.wf (m : RemoteMemory) : Bool :=
  remoteRising m && m.all (fun c => decide (c.1 < 16))

/-- One location. -/
def remoteRead (m : RemoteMemory) (a : Address) : Option Byte :=
  (m.find? fun c => c.1 == a.toNat).map (·.2)

/-- Insertion of one byte in address order. -/
def remoteInsert (k : Nat) (v : Byte) : RemoteMemory → RemoteMemory
  | [] => [(k, v)]
  | (b, w) :: m =>
    if k < b then (k, v) :: (b, w) :: m
    else if k = b then (k, v) :: m
    else (b, w) :: remoteInsert k v m

/-- `MemWrite(address, 1, value)` on a register space (R14, R50). -/
def remoteWrite (m : RemoteMemory) (a : Address) (v : Byte) : RemoteMemory := remoteInsert a.toNat v m

end Sys2Proof.Machine
end

