-- ==== Sys2Proof/Machine/Wire.lean ====
section
/-! DEFINITION. The line-level view: the event lists of the wire formats (30_encoding.md R80 to R85, 40_channel.md R115 to
R118), the GPIO primitive behind each event (R13), and an observer of the four wires (20_memory.md R70). No operation
reads any of it. -/

namespace Sys2Proof.Machine

/-- A GPIO Port primitive on a pin identifier (R2, R13). -/
inductive GpioCall where
  | configureOutput (pin : Nat)
  | configureInput (pin : Nat)
  | setHigh (pin : Nat)
  | setLow (pin : Nat)
  | readLevel (pin : Nat) (result : Bool)
  deriving DecidableEq, Repr

/-- The pin bound to a driven role (R28). -/
def outPin (p : PinMap) : OutRole → Nat
  | .cs => p.cs
  | .clk => p.clk
  | .mosi => p.mosi

/-- The primitive an event stands for; the delay is none (R13). -/
def gpioCall (p : PinMap) : Event → Option GpioCall
  | .cfgOut r => some (.configureOutput (outPin p r))
  | .cfgIn => some (.configureInput p.miso)
  | .drv r true => some (.setHigh (outPin p r))
  | .drv r false => some (.setLow (outPin p r))
  | .smp b => some (.readLevel p.miso b)
  | .wait _ => none

/-! ### Event lists -/

/-- A transmit bit cell (R80). -/
def sendCell (b : Level) : List Event := [.drv .clk true, .drv .mosi b, .drv .clk false]

/-- A receive bit cell (R80). -/
def recvCell (b : Level) : List Event := [.drv .clk true, .smp b, .drv .clk false]

/-- `send(v)` (R115). -/
def sendEvents (v : Byte) : List Event := (wireBits v).flatMap sendCell

/-- `recv(...)` for the levels sampled, first to last (R116). -/
def recvEvents (ls : List Level) : List Event := ls.flatMap recvCell

/-- The events of WRREG (R117). -/
def writeEvents (a : Address) (v : Byte) : List Event :=
  [.drv .cs false] ++ sendEvents (writeCommand a) ++ sendEvents v ++ [.drv .cs true]

/-- The events of RDREGS, with the levels sampled (R118). -/
def readEvents (a : Address) (ls : List Level) : List Event :=
  [.drv .cs false] ++ sendEvents (readCommand a) ++ recvEvents ls ++ [.drv .cs true]

/-- The event of a port request that samples nothing. -/
def setupEvent : Port → List Event
  | .cfgOut r => [.cfgOut r]
  | .cfgIn => [.cfgIn]
  | .drv r l => [.drv r l]
  | .wait t => [.wait t]
  | .smp => []

/-- The events of INIT (R142). -/
def initEvents (c : Config) : List Event :=
  c.initOrder.flatMap setupEvent ++ writeEvents Config.cr1Addr Config.cr1Value

/-- The events of REQCONV (R144). -/
def reqconvEvents (c : Config) : List Event :=
  writeEvents Config.cr0Addr Config.cr0Value ++ [.wait c.convDelayMs]

/-- The `k`-th byte received from now on: the levels `8 k` to `8 k + 7`, first level first (R116, R118). -/
def State.nextByte (s : State) (k : Nat) : Byte := byteOfLevels ((List.range 8).map fun i => s.levelAt (8 * k + i))

/-- The level of each drive of a role in an event list, in order. -/
def drivesOf (r : OutRole) : List Event → List Level
  | [] => []
  | .drv r' l :: es => if r' = r then l :: drivesOf r es else drivesOf r es
  | _ :: es => drivesOf r es

/-- The levels sampled in an event list, in order. -/
def samplesOf : List Event → List Level
  | [] => []
  | .smp b :: es => b :: samplesOf es
  | _ :: es => samplesOf es

/-- An event without the level it sampled: the port request it answers (R24). -/
def eventPort : Event → Port
  | .cfgOut r => .cfgOut r
  | .cfgIn => .cfgIn
  | .drv r l => .drv r l
  | .smp _ => .smp
  | .wait t => .wait t

/-- The number of clock cycles in an event list (R240). -/
def clockCycles (es : List Event) : Nat := (drivesOf .clk es).count true

/-- What MOSI shows at each clock edge to `edge` in an event list, from the level it has before: the level last driven
(R70). -/
def mosiAtEdges (edge : Level) (now : Option Level) : List Event → List (Option Level)
  | [] => []
  | .drv .mosi l :: es => mosiAtEdges edge (some l) es
  | .drv .clk l :: es => if l = edge then now :: mosiAtEdges edge now es else mosiAtEdges edge now es
  | _ :: es => mosiAtEdges edge now es

/-! ### The observer -/

/-- What an observer of the wires keeps: the levels of the three driven lines, the bits MOSI showed at the falling
clock edges of the transaction in progress, and the bytes sent to each remote register by the write frames seen. -/
structure Wires where
  cs    : Option Level
  clk   : Option Level
  mosi  : Option Level
  frame : List Level
  sent  : RemoteMemory
  deriving DecidableEq, Repr

/-- Nothing observed yet. -/
def wiresStart : Wires := { cs := none, clk := none, mosi := none, frame := [], sent := [] }

/-- The frame of a finished transaction: one of 16 bits whose first bit is set is a write of its second byte to the
address in the low four bits of its first (R60, R82, R83). -/
def commitFrame (frame : List Level) (sent : RemoteMemory) : RemoteMemory :=
  if frame.length = 16 ∧ frame.head? = some true then
    remoteWrite sent ((byteOfLevels (frame.take 8)).setWidth 4) (byteOfLevels (frame.drop 8))
  else sent

/-- The observer's move: MOSI is read at the falling clock edge, the only edge at which it is guaranteed to show the
current bit (R70); chip-select opens and closes a transaction (R17). DESIGN CHOICE (log 13), each open for the chip: a bit
clocked while chip-select is not low is dropped (what such clocks do to the chip is open: R231, 91_not_in_source.md N21), and a
write takes effect where chip-select rises (R60 and N21 name no edge). -/
def observe (w : Wires) : Event → Wires
  | .drv .cs false => { w with cs := some false, frame := [] }
  | .drv .cs true =>
    { w with cs := some true, frame := [], sent := if w.cs = some false then commitFrame w.frame w.sent else w.sent }
  | .drv .clk l =>
    { w with
      clk := some l
      frame := if w.cs = some false ∧ w.clk = some true ∧ l = false then w.frame ++ w.mosi.toList else w.frame }
  | .drv .mosi l => { w with mosi := some l }
  | _ => w

/-- The wires after a trace. -/
def observeAll (w : Wires) (es : List Event) : Wires := es.foldl observe w

/-- DESIGN CHOICE (log 13). The last byte the block has sent to each remote register in a write frame: what the register space holds under the
premise `ENV_WRITE` where the chip itself changes nothing (R40, R50, R60); the fault-status clear of a request is no byte sent. -/
def State.remoteSent (s : State) : RemoteMemory := (observeAll wiresStart s.trace).sent

/-- One location of it. -/
def State.remoteByte (s : State) (a : Address) : Option Byte := remoteRead s.remoteSent a

/-! ### The premises on the chip -/

/-- `ENV_AUTOINC` for the read of `n` bytes from `start` whose first sample is the next one: the chip presents the
content of `start`, `start+1`, and so on, most significant bit first, up to address 15 (R59, R62). -/
def EnvAutoinc (regs : Address → Byte) (start : Address) (n : Nat) (s : State) : Prop :=
  ∀ k < n, start.toNat + k < 16 → ∀ i < 8,
    s.levelAt (8 * k + i) = (regs (BitVec.ofNat 4 (start.toNat + k))).getLsbD (7 - i)

/-- What a write of `v` to register `a` makes of the chip's registers: `a` holds `v`; where it is `0x42` to register 0, the
fault status is cleared, so that register 15 reads zero (R57, R38 item 3, R149, R200); every other register is as before.
DEDUCED (log 19): "cleared" is no bit set, and the others stay. What another value written to register 0 does to register 15
is left open (91_not_in_source.md N10: no bit of `0x42` is known to be the clear). -/
def RegisterWrite (before after : Address → Byte) (a : Address) (v : Byte) : Prop :=
  after a = v ∧ (a = Config.cr0Addr → v = Config.cr0Value → after Config.faultAddr = 0) ∧
    ∀ b, b ≠ a → ¬(a = Config.cr0Addr ∧ b = Config.faultAddr) → after b = before b

/-- `ENV_WRITE`, from just before a frame takes effect to just after: a write frame writes its second byte to the addressed
register, a read frame writes none (R60; DEDUCED, log 19). -/
def EnvWrite (before after : Address → Byte) (frame : List Level) : Prop :=
  if frame.head? = some true then
    RegisterWrite before after ((byteOfLevels (frame.take 8)).setWidth 4) (byteOfLevels (frame.drop 8))
  else after = before

/-- `ENV_WRITE` for the conversion requests in a trace, of a chip whose contents are `contents tr` when the last event of `tr`
has happened: where a request's frame ends, they are what that frame makes of some contents (R57, R60). It says nothing of the
contents later on, when the conversion requested may have found a fault of its own (log 19). -/
def EnvRequest (contents : List Event → Address → Byte) : Prop :=
  ∀ before : List Event, ∃ regs, EnvWrite regs (contents (before ++ writeEvents Config.cr0Addr Config.cr0Value))
    (drivesOf .mosi (writeEvents Config.cr0Addr Config.cr0Value))

/-- The milliseconds of the delays in an event list: the time a trace shows to have gone by (R119). -/
def waitedMs : List Event → Nat
  | [] => 0
  | .wait t :: es => t + waitedMs es
  | _ :: es => waitedMs es

/-- Events that ask the chip for nothing but its contents: delays and whole read transactions. -/
inductive OnlyReads : List Event → Prop where
  | nil : OnlyReads []
  | wait (t : Nat) {es : List Event} : OnlyReads es → OnlyReads (.wait t :: es)
  | read (a : Address) (ls : List Level) {es : List Event} : OnlyReads es → OnlyReads (readEvents a ls ++ es)

/-- `ENV_CONV`, of a chip whose contents are `chip tr` for a read that begins after the trace `tr`: once 200 ms have gone by
since the write of `0x42` to register 0 that ends `request`, registers 9 to 15 hold the results of the conversion it
requested (R61). DEDUCED (log 19): the delay events are the time gone by, and the premise says nothing once anything but
reads has followed the write. -/
def EnvConv (chip results : List Event → Address → Byte) : Prop :=
  ∀ before since request : List Event, request = before ++ writeEvents Config.cr0Addr Config.cr0Value →
    OnlyReads since → 200 ≤ waitedMs since → ∀ a : Address, 9 ≤ a.toNat → chip (request ++ since) a = results request a

end Sys2Proof.Machine
end

