-- ==== Sys2Proof/Safety.lean ====
section
/-! DEFINITION. What a safe run is, and the invariants of the block: the idle invariant (10_state.md R41), the state before
construction (R220) and the line disciplines (40_channel.md R121, R122). -/

namespace Sys2Proof.Machine

/-- The block answers a next state `n` times in a row: it never stops. -/
def SafeRun (n : Nat) (s : State) : Prop := ∃ t, Host.Core.run Sys2Proof.core n s = .next t

/-- The block can take an operation and run it to its own response: constructed, idle, no Abort recorded, and a port
that does not fail, as on this hardware (R7, R94, R95, R195). -/
def Ready (s : State) : Prop :=
  s.aborted = false ∧ s.busy = false ∧ s.inited = true ∧ s.config.portCanFail = false

/-- The block can take INIT: not yet constructed, four distinct pins, a legal set-up order (R95, R141, R143). -/
def ReadyForInit (s : State) : Prop :=
  s.aborted = false ∧ s.busy = false ∧ s.inited = false ∧ s.config.portCanFail = false ∧
  s.config.pins.distinct = true ∧ s.config.wf = true

/-- R41, R27: chip-select deasserted, clock low, the directions as INIT leaves them, and MOSI at the level last driven,
which is bit 0 of the last byte sent. -/
def IdleLines (s : State) : Prop :=
  s.lvl.cs = some true ∧ s.lvl.clk = some false ∧
  s.dir = { cs := some .out, clk := some .out, mosi := some .out, miso := some .input } ∧
  s.lvl.mosi ≠ none ∧
  s.lvl.cs = (drivesOf .cs s.trace).getLast? ∧ s.lvl.clk = (drivesOf .clk s.trace).getLast? ∧
  s.lvl.mosi = (drivesOf .mosi s.trace).getLast?

/-- R220: before construction the trace is empty, no role is configured and no level has a value. -/
def Unbuilt (s : State) : Prop :=
  s.trace = [] ∧ s.dir = { cs := some .unconf, clk := some .unconf, mosi := some .unconf, miso := some .unconf } ∧
  s.lvl = { cs := none, clk := none, mosi := none }

/-- R195: after an Abort no level and no direction has a value. -/
def NoLevels (s : State) : Prop :=
  s.dir = { cs := none, clk := none, mosi := none, miso := none } ∧ s.lvl = { cs := none, clk := none, mosi := none }

/-- Between operations: idle, and no transient register with a value (R22, R40, R41). -/
def BetweenOps (s : State) : Prop :=
  s.seq = .idle ∧ s.busy = false ∧
  s.sr = none ∧ s.bitcnt = none ∧ s.bytecnt = none ∧ s.rb = [] ∧ s.raw = none ∧ s.q = none ∧ s.flt = none ∧
  s.dly = none

/-- The invariant of the block between operations. -/
def IdleInv (s : State) : Prop :=
  s.config.wf = true ∧ BetweenOps s ∧
  (s.aborted = true → NoLevels s) ∧
  (s.aborted = false → s.inited = false → Unbuilt s) ∧
  (s.aborted = false → s.inited = true → IdleLines s)

/-- INIT is what a step from here works on: it is in progress, or it is the request an idle block takes up. -/
def ServesInit (s : State) : Prop :=
  (∃ k, s.seq = .running .init k) ∨
  (s.seq = .idle ∧ s.probe = none ∧ ∃ r rest, s.requests = r :: rest ∧ r.instr = .ok .init)

/-- R121, R122: over the whole trace the clock is never raised nor lowered twice in a row, and chip-select is never
asserted nor deasserted twice in a row. -/
def LineDiscipline (s : State) : Prop :=
  (drivesOf .clk s.trace).IsChain (· ≠ ·) ∧ (drivesOf .cs s.trace).IsChain (· ≠ ·)

end Sys2Proof.Machine
end

