-- ==== Sys2Proof/Certificates/Slice0/Obligations.lean ====
section
/-! DEFINITION. The statements about the model. `s.release` is the state between operations: SEQ idle, BUSY clear, no
transient register with a value, every other field as in `s`; so an equation with a record over it is also the frame. -/

open Sys2Proof Sys2Proof.Machine

/-! ### Encodings -/

/-- Decoding the word of an instruction gives the instruction back, for every operand the word can carry (R86 to R88,
R97, R98). -/
def Obligations.DecodeOfEncodeIsTheInstruction : Prop :=
  ∀ i : Instr, i.spelled = true → ∃ f, encode i = some f ∧ decode f = .ok i

/-- A command word that decodes is the word of what it decodes to: no bit of it is dropped (R98, R99). -/
def Obligations.EncodeOfDecodedCommandWord : Prop :=
  ∀ (w : Cmd16) (i : Instr), decode (.cmd16 w) = .ok i → encode i = some (.cmd16 w)

/-- The reserved command words are those with a selector of 8 or more, those of an operation without operands with a
field that is not zero, and those of SENDBYTE with an `a` field that is not zero (R99 (a)). -/
def Obligations.ReservedCommandWords : Prop :=
  ∀ (op a : BitVec 4) (d : BitVec 8),
    (∃ e, decode (.cmd16 (op ++ a ++ d)) = .error e) ↔
      8 ≤ op.toNat ∨ (op.toNat ∈ [0, 2, 5, 6, 7] ∧ ¬(a = 0 ∧ d = 0)) ∨ (op.toNat = 1 ∧ a ≠ 0)

/-- The words of V-E1 to V-E12, the words of three worked decodes and two reserved words, as the opcode table numbers
their bits. -/
def Obligations.SpecWordsDecode : Prop :=
  decodeTableWord 16 0x0000 = some .init ∧
  decodeTableWord 16 0x10A5 = some (.sendbyte 0xA5) ∧
  decodeTableWord 16 0x2000 = some .recvbyte ∧
  decodeTableWord 16 0x3103 = some (.wrreg 1 0x03) ∧
  decodeTableWord 16 0x3042 = some (.wrreg 0 0x42) ∧
  decodeTableWord 16 0x3FFF = some (.wrreg 15 0xFF) ∧
  decodeTableWord 16 0x4903 = some (.rdregs 9 3) ∧
  decodeTableWord 16 0x4C04 = some (.rdregs 12 4) ∧
  decodeTableWord 16 0x4F01 = some (.rdregs 15 1) ∧
  decodeTableWord 16 0x5000 = some .reqconv ∧
  decodeTableWord 16 0x6000 = some .rdcj ∧
  decodeTableWord 16 0x7000 = some .rdtc ∧
  decodeTableWord 32 0x19000081 = some (.dectc 0x19 0x00 0x00) ∧
  decodeTableWord 24 0x101900 = some (.deccj 0x10 0x19 0x00) ∧
  decodeTableWord 8 0x81 = some (.faultsel 0x81) ∧
  decodeTableWord 16 0x8000 = none ∧ decodeTableWord 16 0x7001 = none

/-! ### The step -/

/-- The model's step (log 2, log 3, log 6, log 9): after an Abort it stops; with an operation in progress it moves the sequencer
by one; idle, it waits where nothing is pending, runs the operation the next request names, and refuses a reserved word; a use
of a function put before it comes first, and leaves no transient register with a value. -/
def Obligations.StepServesTheNextRequest : Prop :=
  (∀ s : State, s.aborted = true → step s = .fault .portAborted) ∧
  (∀ (s : State) op k, s.aborted = false → s.seq = .running op k → step s = .next (tick op k s)) ∧
  (∀ s : State, s.aborted = false → s.seq = .idle → s.probe = none → s.requests = [] → step s = .next s) ∧
  (∀ (s : State) r rest i, s.aborted = false → s.seq = .idle → s.probe = none → s.requests = r :: rest →
    r.instr = .ok i → step s = exec i { s with requests := rest }) ∧
  (∀ (s : State) r rest e, s.aborted = false → s.busy = false → s.seq = .idle → s.probe = none →
    s.requests = r :: rest → r.instr = .error e →
    step s = .next { s with requests := rest, responses := s.responses ++ [.refused .reserved] }) ∧
  (∀ (s : State) d, s.aborted = false → s.seq = .idle → s.probe = some d →
    ∃ t, exec (decodeData d) { s with probe := none } = .next t ∧ step s = .next t.clearTransients)

/-- The state before construction: INITED = 0, BUSY = 0, SEQ idle, an empty trace, every role unconfigured, no level and no
transient register with a value (R220), and the parameters of this hardware (R7). The pin identifiers 8, 9, 10, 11 are the model's
choice (log 7: R7 leaves them opaque), and so is that no content of a remote register is known (log 13). -/
def Obligations.ResetIsTheStateBeforeConstruction : Prop :=
  State.reset.inited = false ∧ State.reset.busy = false ∧ State.reset.seq = .idle ∧ State.reset.trace = [] ∧
  State.reset.dir = ⟨some .unconf, some .unconf, some .unconf, some .unconf⟩ ∧ State.reset.lvl = ⟨none, none, none⟩ ∧
  State.reset.sr = none ∧ State.reset.bitcnt = none ∧ State.reset.bytecnt = none ∧ State.reset.rb = [] ∧
  State.reset.raw = none ∧ State.reset.q = none ∧ State.reset.flt = none ∧ State.reset.dly = none ∧
  State.reset.aborted = false ∧ State.reset.config.pins = ⟨8, 9, 10, 11⟩ ∧ State.reset.config.convDelayMs = 200 ∧
  State.reset.config.portCanFail = false ∧ State.reset.config.faultTest = .bitset ∧
  State.reset.config.maxCount = none ∧ State.reset.config.wf = true ∧
  (∀ a, State.reset.remoteByte a = none)

/-- The model's choice (log 9, log 14): a table word in `withFetchWord` is what the next step runs: an operation as it stands,
a function with no transient register left with a value. -/
def Obligations.FetchWordIsRunNext : Prop :=
  ∀ (s : State) (nbits w : Nat) (i : Instr), s.aborted = false → decodeTableWord nbits w = some i →
    (i.isOperation = true →
      step (s.withFetchWord nbits w) = exec i { s with busy := false, seq := .idle, probe := none }) ∧
    (i.isOperation = false → ∃ t, exec i { s with busy := false, seq := .idle, probe := none } = .next t ∧
      step (s.withFetchWord nbits w) = .next t.clearTransients)

/-! ### The channel operations -/

/-- SENDBYTE (R115): the 24 events, CLK ends low, MOSI ends at bit 0, BITCNT ends 0, the response is Done; before INIT it is
refused. -/
def Obligations.SendbyteShiftsMsbFirst : Prop :=
  (∀ (s : State) (v : Nat), Ready s → v < 256 →
    exec (.sendbyte v) s = .next { s.release with
      lvl := { s.lvl with clk := some false, mosi := some (v.testBit 0) }
      trace := s.trace ++ sendEvents (BitVec.ofNat 8 v)
      responses := s.responses ++ [.done] }) ∧
  (∀ v : Byte, (sendEvents v).length = 24 ∧
    sendEvents v = [7, 6, 5, 4, 3, 2, 1, 0].flatMap fun i =>
      [.drv .clk true, .drv .mosi (v.getLsbD i), .drv .clk false]) ∧
  (∀ (s : State) (v : Nat), Ready s → v < 256 →
    (runProgram (programOf s.config (.sendbyte v)) (s.accept (.sendbyte v))).bitcnt = some 0) ∧
  (∀ (s : State) (v : Nat), s.aborted = false → s.busy = false → s.inited = false →
    exec (.sendbyte v) s = .next { s with responses := s.responses ++ [.refused .notInited] })

/-- RECVBYTE (R116): the 24 events, the first level sampled is bit 7 of the result, MOSI and CS are untouched, eight
answers are used up; before INIT it is refused. -/
def Obligations.RecvbyteBuildsTheByteMsbFirst : Prop :=
  (∀ s : State, Ready s → ∃ b : Byte,
    exec .recvbyte s = .next { s.release with
      lvl := { s.lvl with clk := some false }
      trace := s.trace ++ (List.range 8).flatMap fun i => [.drv .clk true, .smp (s.levelAt i), .drv .clk false]
      answers := s.answers.drop 8
      samples := s.samples + 8
      responses := s.responses ++ [.okByte b] } ∧
    b.toNat = (s.levelAt 0).toNat * 128 + (s.levelAt 1).toNat * 64 + (s.levelAt 2).toNat * 32 +
      (s.levelAt 3).toNat * 16 + (s.levelAt 4).toNat * 8 + (s.levelAt 5).toNat * 4 + (s.levelAt 6).toNat * 2 +
      (s.levelAt 7).toNat) ∧
  (∀ s : State, Ready s →
    (runProgram (programOf s.config .recvbyte) (s.accept .recvbyte)).bitcnt = some 0 ∧
    (runProgram (programOf s.config .recvbyte) (s.accept .recvbyte)).sr = some (s.nextByte 0)) ∧
  (∀ s : State, s.aborted = false → s.busy = false → s.inited = false →
    exec .recvbyte s = .next { s with responses := s.responses ++ [.refused .notInited] })

/-- WRREG (R117): chip-select low, the command byte `0x80 | address`, the value, chip-select high; nothing is sampled. -/
def Obligations.WrregSendsCommandThenValue : Prop :=
  (∀ (s : State) (a v : Nat), Ready s → a < 16 → v < 256 →
    exec (.wrreg a v) s = .next { s.release with
      lvl := { cs := some true, clk := some false, mosi := some (v.testBit 0) }
      trace := s.trace ++ ([.drv .cs false] ++ sendEvents (0x80 ||| BitVec.ofNat 8 a) ++ sendEvents (BitVec.ofNat 8 v) ++
        [.drv .cs true])
      responses := s.responses ++ [.done] }) ∧
  (∀ (s : State) (a v : Nat), s.aborted = false → s.busy = false → s.inited = false →
    exec (.wrreg a v) s = .next { s with responses := s.responses ++ [.refused .notInited] })

/-- RDREGS (R118): chip-select low, the plain address, `count` bytes received, chip-select high; the response holds exactly
`count` bytes, the first received first, whatever the environment answers and however far past address 15 the read runs. After
the command byte and `k` bytes received, BYTECNT is `count - k` and RB holds the `k` bytes; at the end of the program they are 0
and the `count` bytes. -/
def Obligations.RdregsReceivesCountBytes : Prop :=
  (∀ (s : State) (a n : Nat), Ready s → a < 16 → 0 < n → (∀ m, s.config.maxCount = some m → n ≤ m) →
    exec (.rdregs a n) s = .next { s.release with
      lvl := { cs := some true, clk := some false, mosi := some (a.testBit 0) }
      trace := s.trace ++ ([.drv .cs false] ++ sendEvents (BitVec.ofNat 8 a) ++
        (List.range (8 * n)).flatMap (fun i => [.drv .clk true, .smp (s.levelAt i), .drv .clk false]) ++ [.drv .cs true])
      answers := s.answers.drop (8 * n)
      samples := s.samples + 8 * n
      responses := s.responses ++ [.okBytes ((List.range n).map s.nextByte)] }) ∧
  (∀ (s : State) (a n k : Nat), Ready s → a < 16 → k ≤ n →
    ∃ done left, programOf s.config (.rdregs a n) = done ++ left ∧ (portsOf done).length = 25 + 24 * k ∧
      (runProgram done (s.accept (.rdregs a n))).bytecnt = some (n - k) ∧
      (runProgram done (s.accept (.rdregs a n))).rb = (List.range k).map s.nextByte) ∧
  (∀ (s : State) (a n : Nat), Ready s → a < 16 →
    (runProgram (programOf s.config (.rdregs a n)) (s.accept (.rdregs a n))).bytecnt = some 0 ∧
    (runProgram (programOf s.config (.rdregs a n)) (s.accept (.rdregs a n))).rb = (List.range n).map s.nextByte) ∧
  (∀ (s : State) (a n : Nat), s.aborted = false → s.busy = false → s.inited = false →
    exec (.rdregs a n) s = .next { s with responses := s.responses ++ [.refused .notInited] })

/-! ### The device operations -/

/-- INIT (R142), for every legal set-up order: the set-up events, the mode write and nothing else; the roles configured,
CS high, CLK low, MOSI at bit 0 of `0x03`, INITED set. -/
def Obligations.InitConfiguresAndWritesModeOnce : Prop :=
  (∀ s : State, ReadyForInit s →
    exec .init s = .next { s.release with
      inited := true
      dir := { cs := some .out, clk := some .out, mosi := some .out, miso := some .input }
      lvl := { cs := some true, clk := some false, mosi := some true }
      trace := s.trace ++ (s.config.initOrder.flatMap setupEvent ++
        ([.drv .cs false] ++ sendEvents 0x81 ++ sendEvents 0x03 ++ [.drv .cs true]))
      responses := s.responses ++ [.done] }) ∧
  (∀ c : Config, c.wf = true → (c.initOrder.flatMap setupEvent).length = 7 ∧ (initEvents c).length = 57 ∧
    samplesOf (initEvents c) = []) ∧
  Config.thisHardware.initOrder.flatMap setupEvent =
    [.cfgOut .cs, .cfgOut .clk, .cfgOut .mosi, .drv .cs true, .drv .clk false, .drv .mosi false, .cfgIn]

/-- REQCONV (R144): the control write, chip-select raised, then the delay as the last event. DLY holds the delay's length when
the delay starts, and, as the model reads R203 (log 11), 0 at the end of the program. -/
def Obligations.ReqconvWritesControlThenWaits : Prop :=
  (∀ s : State, Ready s →
    exec .reqconv s = .next { s.release with
      lvl := { cs := some true, clk := some false, mosi := some false }
      trace := s.trace ++ ([.drv .cs false] ++ sendEvents 0x80 ++ sendEvents 0x42 ++
        [.drv .cs true, .wait s.config.convDelayMs])
      responses := s.responses ++ [.done] }) ∧
  (∀ s : State, Ready s →
    ∃ done left, programOf s.config .reqconv = done ++ .port (.wait s.config.convDelayMs) :: left ∧
      (runProgram done (s.accept .reqconv)).dly = some s.config.convDelayMs ∧
      (runProgram (programOf s.config .reqconv) (s.accept .reqconv)).dly = some 0) ∧
  (∀ s : State, s.aborted = false → s.busy = false → s.inited = false →
    exec .reqconv s = .next { s with responses := s.responses ++ [.refused .notInited] })

/-- RDCJ (R145): a conversion request, the read of registers 9 to 11, and DECCJ of the three bytes, never a fault kind. Before
the response RAW and Q are as DECCJ writes them. -/
def Obligations.RdcjRequestsReadsAndDecodes : Prop :=
  (∀ s : State, Ready s →
    exec .rdcj s = .next { s.release with
      lvl := { cs := some true, clk := some false, mosi := some true }
      trace := s.trace ++ (reqconvEvents s.config ++ ([.drv .cs false] ++ sendEvents 0x09 ++
        (List.range 24).flatMap (fun i => [.drv .clk true, .smp (s.levelAt i), .drv .clk false]) ++ [.drv .cs true]))
      answers := s.answers.drop 24
      samples := s.samples + 24
      responses := s.responses ++ [.okCj (decCj (s.nextByte 0) (s.nextByte 1) (s.nextByte 2))] }) ∧
  (∀ s : State, Ready s → ∃ u, u = runProgram (programOf s.config .rdcj) (s.accept .rdcj) ∧
    u.rb = [s.nextByte 0, s.nextByte 1, s.nextByte 2] ∧ u.bytecnt = some 0 ∧
    u.raw = some (cjRaw (s.nextByte 1) (s.nextByte 2)) ∧
    u.q = some ((decCj (s.nextByte 0) (s.nextByte 1) (s.nextByte 2)).setWidth 19)) ∧
  (∀ s : State, s.aborted = false → s.busy = false → s.inited = false →
    exec .rdcj s = .next { s with responses := s.responses ++ [.refused .notInited] })

/-- RDTC (R146): a conversion request, the read of registers 12 to 15, then the fault kind of the fourth byte, or, where it
has none, DECTC of the first three. Before the response RAW and Q are as DECTC writes them and FLT is the fourth byte. -/
def Obligations.RdtcRequestsReadsAndDecodes : Prop :=
  (∀ s : State, Ready s →
    exec .rdtc s = .next { s.release with
      lvl := { cs := some true, clk := some false, mosi := some false }
      trace := s.trace ++ (reqconvEvents s.config ++ ([.drv .cs false] ++ sendEvents 0x0C ++
        (List.range 32).flatMap (fun i => [.drv .clk true, .smp (s.levelAt i), .drv .clk false]) ++ [.drv .cs true]))
      answers := s.answers.drop 32
      samples := s.samples + 32
      responses := s.responses ++ [match faultSel s.config.faultTest (s.nextByte 3) with
        | some k => .fault k
        | none => .okTc (decTc (s.nextByte 0) (s.nextByte 1) (s.nextByte 2))] }) ∧
  (∀ s : State, Ready s → ∃ u, u = runProgram (programOf s.config .rdtc) (s.accept .rdtc) ∧
    u.rb = [s.nextByte 0, s.nextByte 1, s.nextByte 2, s.nextByte 3] ∧ u.bytecnt = some 0 ∧
    u.raw = some (tcRaw (s.nextByte 0) (s.nextByte 1) (s.nextByte 2)) ∧
    u.q = some (decTc (s.nextByte 0) (s.nextByte 1) (s.nextByte 2)) ∧ u.flt = some (s.nextByte 3)) ∧
  (∀ s : State, s.aborted = false → s.busy = false → s.inited = false →
    exec .rdtc s = .next { s with responses := s.responses ++ [.refused .notInited] })

/-- R149: RDCJ followed by RDTC makes two conversion requests and two waits, and reads the two results in two further
transactions. -/
def Obligations.EachReadMakesItsOwnConversion : Prop :=
  ∀ s : State, Ready s → ∃ t u, exec .rdcj s = .next t ∧ exec .rdtc t = .next u ∧
    u.trace = s.trace ++ reqconvEvents s.config ++ readEvents 9 (s.levels 24) ++ reqconvEvents s.config ++
      readEvents 12 (t.levels 32) ∧
    u.trace.length = s.trace.length + 322

/-! ### The functions -/

/-- DECTC (R160; that it runs on its own, in every state, and where its result goes: log 9): it yields `Q`, the 24-bit number
`{high, mid, low}` shifted right by 5, writes RAW and Q and changes nothing else; the host is answered nothing. -/
def Obligations.DectcDecodesEveryTriple : Prop :=
  ∀ (h m l : Byte) (s : State), ∃ (raw : BitVec 24) (q : BitVec 19),
    exec (.dectc h m l) s = .next { s with raw := some raw, q := some q, results := s.results ++ [.tc q] } ∧
    raw.toNat = h.toNat * 65536 + m.toNat * 256 + l.toNat ∧
    q.toNat = ((h.toNat <<< 16) ||| (m.toNat <<< 8) ||| l.toNat) >>> 5 ∧
    q.toNat = raw.toNat / 32

/-- DECCJ (R166; that it runs on its own, in every state, and where its result goes: log 9): it yields `Q`, the offset plus
`{msb, lsb}` shifted right by 2, writes RAW and Q and changes nothing else; the host is answered nothing. -/
def Obligations.DeccjDecodesEveryTriple : Prop :=
  ∀ (o m l : Byte) (s : State), ∃ (raw : BitVec 24) (q : BitVec 15),
    exec (.deccj o m l) s =
      .next { s with raw := some raw, q := some (q.setWidth 19), results := s.results ++ [.cj q] } ∧
    raw.toNat = m.toNat * 256 + l.toNat ∧
    q.toNat = o.toNat + (((m.toNat <<< 8) ||| l.toNat) >>> 2) ∧
    (q.setWidth 19).toNat = q.toNat

/-- FAULTSEL (R172; that it runs on its own, in every state, and where its result goes: log 9): it yields the kind of the most
significant set bit of the fault byte, or None for zero only, and changes nothing else; the host is answered nothing. -/
def Obligations.FaultselReportsHighestSetBit : Prop :=
  (∀ (f : Byte) (s : State), s.config.faultTest = .bitset → ∃ r : Option FaultKind,
    exec (.faultsel f) s = .next { s with results := s.results ++ [.selected r] } ∧
    (r = none ↔ f = 0) ∧
    (∀ k, r = some k ↔ f.getLsbD (faultBit k) = true ∧ ∀ j, faultBit k < j → f.getLsbD j = false)) ∧
  faultSel .bitset 0xFF = some .cjRange ∧ faultSel .bitset 0x81 = some .cjRange

/-- R173: this hardware's test is the bit-set test, and what the rejected equals-one comparison would report. -/
def Obligations.FaultTestReadings : Prop :=
  Config.thisHardware.faultTest = .bitset ∧
  (∀ f mask : Byte, faultTest .bitset f mask = true ↔ f &&& mask ≠ 0) ∧
  (∀ (k : FaultKind) (f : Byte), faultTest .bitset f (faultMask k) = f.getLsbD (faultBit k)) ∧
  (∀ f : Byte, faultSel .equalsOne f = if f.getLsbD 0 then some .openCircuit else none) ∧
  faultSel .equalsOne 0x81 = some .openCircuit ∧ faultSel .equalsOne 0x80 = none

/-- R88: the nine rows of the FAULT8 table partition the 256 byte values, and each row's value selects its kind. -/
def Obligations.FaultByteRowsPartition : Prop :=
  ∀ f : Byte, ∃ row ∈ ([(0x80, 0x80, some .cjRange), (0xC0, 0x40, some .tcRange), (0xE0, 0x20, some .cjHigh),
      (0xF0, 0x10, some .cjLow), (0xF8, 0x08, some .tcHigh), (0xFC, 0x04, some .tcLow), (0xFE, 0x02, some .ovuv),
      (0xFF, 0x01, some .openCircuit), (0xFF, 0x00, none)] : List (Byte × Byte × Option FaultKind)),
    f &&& row.1 = row.2.1 ∧ faultSel .bitset f = row.2.2 ∧
    ∀ row' ∈ ([(0x80, 0x80, some .cjRange), (0xC0, 0x40, some .tcRange), (0xE0, 0x20, some .cjHigh),
      (0xF0, 0x10, some .cjLow), (0xF8, 0x08, some .tcHigh), (0xFC, 0x04, some .tcLow), (0xFE, 0x02, some .ovuv),
      (0xFF, 0x01, some .openCircuit), (0xFF, 0x00, none)] : List (Byte × Byte × Option FaultKind)),
      f &&& row'.1 = row'.2.1 → row' = row

/-- R174: index, mask and name of the eight kinds; the mask is the single bit of the index. -/
def Obligations.FaultKindsCarryMaskAndName : Prop :=
  (∀ k, faultMask k = BitVec.twoPow 8 (faultBit k)) ∧
  (∀ j < 8, ∃! k, faultBit k = j) ∧
  [FaultKind.cjRange, .tcRange, .cjHigh, .cjLow, .tcHigh, .tcLow, .ovuv, .openCircuit].map
    (fun k => (faultBit k, faultMask k, faultName k)) =
    [(7, 0x80, "Cold Junction Out-of-Range"), (6, 0x40, "Thermocouple Out-of-Range"), (5, 0x20, "Cold-Junction High"),
     (4, 0x10, "Cold-Junction Low"), (3, 0x08, "Thermocouple Temp High"), (2, 0x04, "Thermocouple Temp Low"),
     (1, 0x02, "Over/Undervoltage"), (0, 0x01, "Thermocouple Open-Circuit")]

/-- R162: the thermocouple decode is monotonic in the 24-bit number and constant on each block of 32 raw values. -/
def Obligations.ThermocoupleDecodeMonotonic : Prop :=
  (∀ h m l h' m' l' : Byte, (tcRaw h m l).toNat ≤ (tcRaw h' m' l').toNat →
    (decTc h m l).toNat ≤ (decTc h' m' l').toNat) ∧
  (∀ h m l h' m' l' : Byte, (tcRaw h m l).toNat / 32 = (tcRaw h' m' l').toNat / 32 → decTc h m l = decTc h' m' l')

/-- R164: the low five bits of `low` have no effect, and nothing is rounded. -/
def Obligations.ThermocoupleLowBitsDiscarded : Prop :=
  (∀ h m l l' : Byte, l.toNat / 32 = l'.toNat / 32 → decTc h m l = decTc h m l') ∧
  (∀ h m l : Byte, (decTc h m l).toNat * 32 ≤ (tcRaw h m l).toNat ∧ (tcRaw h m l).toNat < (decTc h m l).toNat * 32 + 32)

/-- R163: bit 23 has weight `2^18` in Q: raw values with it set decode to 2048 degrees or more, none to a negative number. -/
def Obligations.ThermocoupleDecodeUnsigned : Prop :=
  (∀ h m l : Byte, h.getLsbD 7 = true → 262144 ≤ (decTc h m l).toNat ∧ 2048 ≤ tcCelsius (decTc h m l)) ∧
  (∀ h m l : Byte, h.getLsbD 7 = false → (decTc h m l).toNat < 262144) ∧
  (∀ h m l : Byte, (decTc (h ||| 0x80) m l).toNat = (decTc (h &&& 0x7F) m l).toNat + 2 ^ 18) ∧
  (∀ q, 0 ≤ tcCelsius q) ∧ decTc 0xFF 0xFF 0xE0 = 524287 ∧ tcCelsius 524287 = 4095.9921875

/-- R168: the range of the cold-junction result. -/
def Obligations.ColdJunctionRange : Prop :=
  ∀ o m l : Byte, (cjRaw m l).toNat / 4 ≤ 16383 ∧ (decCj o m l).toNat = o.toNat + (cjRaw m l).toNat / 4 ∧
    (decCj o m l).toNat ≤ 16638 ∧ 16638 < 2 ^ 15 ∧
    ((decCj o m l).toNat = 0 ↔ o = 0 ∧ m.toNat * 256 + l.toNat < 4)

/-- The exact Celsius values (R161, R169): the integer times the scale of the document is the integer over a power of two,
for the document's formulas of both reads. -/
def Obligations.CelsiusIsTheDocumentsFormula : Prop :=
  (∀ h m l : Byte, tcCelsius (decTc h m l) =
    ((((h.toNat <<< 16) ||| (m.toNat <<< 8) ||| l.toNat) >>> 5 : Nat) : Rat) * 0.0078125) ∧
  (∀ o m l : Byte, cjCelsius (decCj o m l) =
    ((o.toNat + (((m.toNat <<< 8) ||| l.toNat) >>> 2) : Nat) : Rat) * 0.015625) ∧
  (∀ q, tcCelsius q = q.toNat / 128) ∧ (∀ q, cjCelsius q = q.toNat / 64) ∧ tcCelsius (decTc 0x19 0 0) = 400

/-! ### Admission, refusal, exceptions -/

/-- The admission checks in their order (R95), and that a refused request changes nothing but the response handed out (R96,
decision D29). That a refusal is a next state, the request taken and the response appended, is the model's reading (log 3). -/
def Obligations.AdmissionChecksInOrder : Prop :=
  ∀ s : State, s.aborted = false → s.busy = false →
    (s.config.pins.distinct = false →
      exec .init s = .next { s with responses := s.responses ++ [.refused .notDistinctPins] }) ∧
    (s.config.pins.distinct = true → s.inited = true →
      exec .init s = .next { s with responses := s.responses ++ [.refused .alreadyInited] }) ∧
    (s.inited = false → ∀ i, (match i with
        | .sendbyte _ | .recvbyte | .wrreg _ _ | .rdregs _ _ | .reqconv | .rdcj | .rdtc => True
        | _ => False) →
      exec i s = .next { s with responses := s.responses ++ [.refused .notInited] }) ∧
    (s.inited = true → ∀ a x, 16 ≤ a →
      exec (.wrreg a x) s = .next { s with responses := s.responses ++ [.refused .badAddress] } ∧
      exec (.rdregs a x) s = .next { s with responses := s.responses ++ [.refused .badAddress] }) ∧
    (s.inited = true → ∀ a v, 256 ≤ v →
      exec (.sendbyte v) s = .next { s with responses := s.responses ++ [.refused .badValue] } ∧
      (a < 16 → exec (.wrreg a v) s = .next { s with responses := s.responses ++ [.refused .badValue] })) ∧
    (s.inited = true → ∀ a n, a < 16 → (n = 0 ∨ ∃ m, s.config.maxCount = some m ∧ m < n) →
      exec (.rdregs a n) s = .next { s with responses := s.responses ++ [.refused .badCount] }) ∧
    (∀ w e rest, s.seq = .idle → s.probe = none → s.requests = .word w :: rest → decode (.cmd16 w) = .error e →
      step s = .next { s with requests := rest, responses := s.responses ++ [.refused .reserved] })

/-- R94: while BUSY = 1 the host has no move: no operation it presents has a step, which the model says by the refusal
`hostHasNoMove` (log 4). -/
def Obligations.HostHasNoMoveWhileBusy : Prop :=
  ∀ (s : State) (i : Instr), s.aborted = false → s.busy = true → (match i with
      | .dectc _ _ _ | .deccj _ _ _ | .faultsel _ => False
      | _ => True) →
    exec i s = .refused .hostHasNoMove

/-- R192, R199: a FaultError is taken with all 173 events emitted, chip-select high, CLK low, MOSI 0 and the block idle; the
temperature is discarded; and the very next request is accepted as after any other response (R200). -/
def Obligations.FaultErrorIsPrecise : Prop :=
  ∀ s : State, Ready s → s.config.faultTest = .bitset → s.nextByte 3 ≠ 0 → ∃ (t : State) (k : FaultKind),
    exec .rdtc s = .next t ∧ faultSel .bitset (s.nextByte 3) = some k ∧
    t.responses = s.responses ++ [.fault k] ∧
    t.trace.length = s.trace.length + 173 ∧ t.trace.take s.trace.length = s.trace ∧
    t.lvl = ⟨some true, some false, some false⟩ ∧ t.dir = s.dir ∧ t.seq = .idle ∧ t.busy = false ∧
    t.q = none ∧ t.raw = none ∧ t.flt = none ∧ t.inited = true ∧ Ready t

/-- R193: no operation but RDTC ever answers a fault kind, on whatever state and operands, and each answers exactly one response
(R92, 30_encoding.md section 4); RDREGS 15, 1 answers the byte received as data. That a function can be run on its own and then
answers the host nothing is the model's choice (log 9). -/
def Obligations.OnlyRdtcAnswersAFaultKind : Prop :=
  (∀ (i : Instr) (s t : State), i ≠ .rdtc → exec i s = .next t →
    (i.isOperation = false ∧ t.responses = s.responses) ∨
    (i.isOperation = true ∧ ∃ r, t.responses = s.responses ++ [r] ∧ ∀ k, r ≠ .fault k)) ∧
  (∀ s : State, Ready s → (∀ m, s.config.maxCount = some m → 1 ≤ m) →
    ∃ t, exec (.rdregs 15 1) s = .next t ∧ t.responses = s.responses ++ [.okBytes [s.nextByte 0]])

/-- R195: where any port event of an operation fails, the first or a later one, the delay too, the operation ends at once with
Abort: the events emitted are exactly those before the failing one, with the levels sampled; no level and no direction has a
value; and the fault is recorded (the failing event is not on the trace: log 6). An Abort is answered in no other way. -/
def Obligations.FailedPrimitiveAborts : Prop :=
  (∀ (i : Instr) (s : State) (k : Nat), s.aborted = false → s.busy = false → s.config.portCanFail = true →
    admission i s = none → (∀ j < k, s.failsAt j = false) → s.failsAt k = true →
    k < (portsOf (programOf s.config i)).length →
    ∃ t es, exec i s = .next t ∧ t.aborted = true ∧ NoLevels t ∧ t.seq = .idle ∧ t.busy = false ∧
      t.responses = s.responses ++ [.abort] ∧ t.trace = s.trace ++ es ∧
      es.map eventPort = (portsOf (programOf s.config i)).take k ∧ samplesOf es = s.levels (samplesOf es).length) ∧
  (∀ (i : Instr) (s t : State), s.aborted = false → exec i s = .next t → t.aborted = true →
    s.config.portCanFail = true ∧ NoLevels t ∧ t.seq = .idle ∧ t.busy = false ∧
    t.responses = s.responses ++ [.abort] ∧
    ∃ k < (portsOf (programOf s.config i)).length, (∀ j < k, s.failsAt j = false) ∧ s.failsAt k = true ∧
      t.trace.map eventPort = s.trace.map eventPort ++ (portsOf (programOf s.config i)).take k)

/-- R195: after an Abort no operation of the block has a meaning and no step is left: the fault is never cleared (log 6). -/
def Obligations.AbortIsTerminal : Prop :=
  ∀ s : State, s.aborted = true → step s = .fault .portAborted ∧
    ∀ i : Instr, (match i with
      | .dectc _ _ _ | .deccj _ _ _ | .faultsel _ => False
      | _ => True) → exec i s = .fault .portAborted

/-- R195: where `PORT_CAN_FAIL = false`, as on this hardware, Abort never occurs. -/
def Obligations.NoAbortOnThisHardware : Prop :=
  ∀ s t : State, s.config.portCanFail = false → step s = .next t →
    t.aborted = false ∧ t.config.portCanFail = false ∧
    (t.responses = s.responses ∨ ∃ r, t.responses = s.responses ++ [r] ∧ r ≠ .abort)

/-- Where the port can fail and nothing failed, an operation did what it does where the port cannot fail, but for the record
of what the port answered (the model's record: log 6). -/
def Obligations.UnfailedRunIsTheSoundRun : Prop :=
  ∀ (i : Instr) (s t : State), s.aborted = false → exec i s = .next t → t.aborted = false →
    ∃ u, exec i { s with config := { s.config with portCanFail := false } } = .next u ∧
      t = { u with config := s.config, failures := t.failures, attempts := t.attempts }

/-! ### Whole-machine rules -/

/-- The state before construction meets the invariant. -/
def Obligations.ResetMeetsTheInvariant : Prop := IdleInv State.reset ∧ LineDiscipline State.reset

/-- R41: the idle invariant is kept by every step, whatever the request, the environment and the port do. -/
def Obligations.StepKeepsTheIdleInvariant : Prop :=
  ∀ s t : State, IdleInv s → step s = .next t → IdleInv t

/-- R121, R122: over the whole trace the clock is never raised nor lowered twice in a row, and chip-select neither. -/
def Obligations.StepKeepsTheLineDiscipline : Prop :=
  ∀ s t : State, IdleInv s → LineDiscipline s → step s = .next t → LineDiscipline t

/-- R24, R25: moving the sequencer one port event at a time from the acceptance of a request: after `k` moves SEQ is `(op, k)`, the
first `k` events have been emitted, no response has been given, and INIT has set INITED exactly at its last event; one move more,
for the response (log 2), reaches exactly the state the operation answers in the one step the model gives it. -/
def Obligations.SequencerRunsTheOperation : Prop :=
  ∀ (i : Instr) (s : State), s.aborted = false → s.busy = false → s.config.portCanFail = false →
    admission i s = none → (portsOf (programOf s.config i)) ≠ [] →
    (∀ k ≤ (portsOf (programOf s.config i)).length, ∃ t, Host.Core.run Sys2Proof.core k (s.accept i) = .next t ∧
      t.seq = .running i k ∧ t.busy = true ∧ t.responses = s.responses ∧
      t.trace.map eventPort = s.trace.map eventPort ++ (portsOf (programOf s.config i)).take k ∧
      (i = .init → (t.inited = true ↔ k = (portsOf (programOf s.config i)).length)) ∧
      (i ≠ .init → t.inited = s.inited)) ∧
    Host.Core.run Sys2Proof.core ((portsOf (programOf s.config i)).length + 1) (s.accept i) = exec i s

/-- The number of port events of each operation (R24) and of its clock cycles (R240). -/
def Obligations.EventsAndClockCyclesPerOperation : Prop :=
  (∀ s : State, ReadyForInit s → ∃ t, exec .init s = .next t ∧ t.trace.length = s.trace.length + 57 ∧
    clockCycles (t.trace.drop s.trace.length) = 16) ∧
  ∀ s : State, Ready s → ∀ (i : Instr) (events cycles : Nat), admission i s = none →
    (match i with
      | .sendbyte _ | .recvbyte => events = 24 ∧ cycles = 8
      | .wrreg _ _ => events = 50 ∧ cycles = 16
      | .rdregs _ n => events = 26 + 24 * n ∧ cycles = 8 + 8 * n
      | .reqconv => events = 51 ∧ cycles = 16
      | .rdcj => events = 149 ∧ cycles = 48
      | .rdtc => events = 173 ∧ cycles = 56
      | _ => False) →
    ∃ t, exec i s = .next t ∧ t.trace.length = s.trace.length + events ∧
      clockCycles (t.trace.drop s.trace.length) = cycles

/-- R24, R123: the levels the environment answers change what is sampled and the response, never which events occur nor in
what order, nor the levels and directions left. -/
def Obligations.AnswersNeverSteerTheEvents : Prop :=
  ∀ (i : Instr) (s t : State) (answers : List Level) (n : Nat), exec i s = .next t →
    ∃ u, exec i { s with answers := answers, samples := n } = .next u ∧
      u.trace.map eventPort = t.trace.map eventPort ∧ u.lvl = t.lvl ∧ u.dir = t.dir ∧ u.inited = t.inited ∧
      u.aborted = t.aborted ∧ u.seq = t.seq ∧ u.busy = t.busy

/-- R22: an operation does not depend on what the transient registers held before it (log 10). -/
def Obligations.OperationsReadNoEarlierRegister : Prop :=
  ∀ (i : Instr) (s : State) sr bitcnt bytecnt rb raw q flt dly, admission i s = none →
    (portsOf (programOf s.config i)) ≠ [] →
    exec i { s with
      sr := sr, bitcnt := bitcnt, bytecnt := bytecnt, rb := rb, raw := raw, q := q, flt := flt, dly := dly } = exec i s

/-- R20, R25, R143: no step, of an idle block or of an operation in progress, changes the configuration or clears INITED, and
only INIT sets it. -/
def Obligations.ConfigurationAndInitedAreLasting : Prop :=
  ∀ s t : State, step s = .next t →
    t.config = s.config ∧ (s.inited = true → t.inited = true) ∧
    (s.inited = false → t.inited = true → ServesInit s)

/-- R92: a request taken is answered with exactly one response; the requests behind it wait (the model's lists: log 2). -/
def Obligations.OneResponsePerRequest : Prop :=
  ∀ (s t : State) r rest, s.seq = .idle → s.probe = none → s.requests = r :: rest → step s = .next t →
    t.requests = rest ∧ ∃ a, t.responses = s.responses ++ [a]

/-- R39, R65: the trace and the responses (the model's list: log 12) only ever grow at their end: nothing is reordered or
retried. -/
def Obligations.TraceOnlyGrows : Prop :=
  ∀ s t : State, step s = .next t → s.trace <+: t.trace ∧ s.responses <+: t.responses

/-- R27, R110, R111: only INIT configures a pin: no other instruction and no step that does not work on INIT emits a CfgOut or
CfgIn event, or changes a direction but by an Abort (R195), however the port and the environment answer. -/
def Obligations.OnlyInitConfiguresPins : Prop :=
  (∀ (i : Instr) (s t : State), i ≠ .init → exec i s = .next t →
    (∀ e ∈ t.trace.drop s.trace.length, e ≠ .cfgIn ∧ ∀ r, e ≠ .cfgOut r) ∧ (t.dir = s.dir ∨ t.aborted = true)) ∧
  (∀ s t : State, step s = .next t → ¬ ServesInit s →
    (∀ e ∈ t.trace.drop s.trace.length, e ≠ .cfgIn ∧ ∀ r, e ≠ .cfgOut r) ∧ (t.dir = s.dir ∨ t.aborted = true))

/-- R90: the three functions are no host requests: no request names one, and where no use of a function has been put before the
model from outside (log 9), no step puts one there, runs one or yields a result. -/
def Obligations.FunctionsAreNoHostRequests : Prop :=
  (∀ (r : Request) (i : Instr), r.instr = .ok i → i.isOperation = true) ∧
  (∀ s t : State, s.probe = none → step s = .next t → t.probe = none ∧ t.results = s.results)

/-- R143: after INIT has completed a second INIT is refused, and the block takes every other operation. -/
def Obligations.InitOnlyOnce : Prop :=
  ∀ s : State, ReadyForInit s → ∃ t, exec .init s = .next t ∧ Ready t ∧
    exec .init t = .next { t with responses := t.responses ++ [.refused .alreadyInited] }

/-! ### The wires and the remote register space -/

/-- R82 to R84: the MOSI bits of a write frame are `1000aaaadddddddd` and those of a read frame `0000aaaa`, most significant
first. -/
def Obligations.FrameBitsOnMosi : Prop :=
  (∀ (a : Address) (v : Byte), drivesOf .mosi (writeEvents a v) =
    (List.range 16).map fun j => ((0b1000 : BitVec 4) ++ a ++ v).getLsbD (15 - j)) ∧
  (∀ (a : Address) (ls : List Level), drivesOf .mosi (readEvents a ls) =
    (List.range 8).map (fun j => ((0b0000 : BitVec 4) ++ a).getLsbD (7 - j)) ∧ samplesOf (readEvents a ls) = ls) ∧
  (∀ (a : Address) (v : Byte), samplesOf (writeEvents a v) = [])

/-- R70: a sent byte is on MOSI at its falling clock edges; at the rising edges MOSI still shows the bit before, at the first
one the residual level. -/
def Obligations.SentBitsAtClockEdges : Prop :=
  ∀ (now : Option Level) (v : Byte),
    mosiAtEdges false now (sendEvents v) = (wireBits v).map some ∧
    mosiAtEdges true now (sendEvents v) = now :: ((wireBits v).dropLast.map some)

/-- R60, R83 on the wire (the model's observer: log 13): an observer that reads MOSI at the falling edges sees WRREG send its value to its address and to no
other remote register, whatever the trace before. -/
def Obligations.WrregReachesItsRegisterOnly : Prop :=
  ∀ (s t : State) (a v : Nat), Ready s → a < 16 → v < 256 → exec (.wrreg a v) s = .next t →
    t.remoteByte (BitVec.ofNat 4 a) = some (BitVec.ofNat 8 v) ∧
    ∀ b, b ≠ BitVec.ofNat 4 a → t.remoteByte b = s.remoteByte b

/-- The remote registers the other operations send to, as the model's observer sees them (log 13): none for SENDBYTE, RECVBYTE, RDREGS and the functions, register 0 with
`0x42` for REQCONV, RDCJ and RDTC, register 1 with `0x03` for INIT; every other location is as before. -/
def Obligations.OtherOperationsReachTheirRegistersOnly : Prop :=
  (∀ (i : Instr) (s t : State), Ready s → exec i s = .next t → (match i with
      | .sendbyte _ | .recvbyte | .rdregs _ _ | .dectc _ _ _ | .deccj _ _ _ | .faultsel _ => True
      | _ => False) → ∀ b, t.remoteByte b = s.remoteByte b) ∧
  (∀ (i : Instr) (s t : State), Ready s → exec i s = .next t → (match i with
      | .reqconv | .rdcj | .rdtc => True
      | _ => False) → t.remoteByte 0 = some 0x42 ∧ ∀ b, b ≠ 0 → t.remoteByte b = s.remoteByte b) ∧
  (∀ s t : State, ReadyForInit s → IdleInv s → exec .init s = .next t →
    t.remoteByte 1 = some 0x03 ∧ ∀ b, b ≠ 1 → t.remoteByte b = none)

/-- The register space as the model writes it down (log 13) is in its canonical form, whatever the trace; a write to one location reads back and
leaves the others. -/
def Obligations.RemoteSpaceStaysCanonical : Prop :=
  (∀ s : State, s.remoteSent.wf = true) ∧
  (∀ (m : RemoteMemory) (a b : Address) (v : Byte), m.wf = true → (remoteWrite m a v).wf = true ∧
    remoteRead (remoteWrite m a v) a = some v ∧ (b ≠ a → remoteRead (remoteWrite m a v) b = remoteRead m b))

/-- R59: where the chip presents its registers with auto-increment, RDREGS answers their contents in ascending order, up to
address 15; RDREGS 15, 1 answers the fault byte as data. -/
def Obligations.RdregsUnderAutoIncrement : Prop :=
  ∀ (regs : Address → Byte) (s : State) (a n : Nat), Ready s → a < 16 → 0 < n →
    (∀ m, s.config.maxCount = some m → n ≤ m) → EnvAutoinc regs (BitVec.ofNat 4 a) n s →
    ∃ t bs, exec (.rdregs a n) s = .next t ∧ t.responses = s.responses ++ [.okBytes bs] ∧ bs.length = n ∧
      ∀ k < n, a + k < 16 → bs[k]? = some (regs (BitVec.ofNat 4 (a + k)))

/-- Under the premises on the chip (R59, R61), read as in log 19, and a delay of at least 200 ms: RDTC answers the temperature of
the conversion that its own write requested where that conversion's fault byte is zero, and its highest fault otherwise; RDCJ
answers that conversion's cold-junction temperature; and after REQCONV a block read of registers 9 to 15 answers the results of
the conversion REQCONV requested. -/
def Obligations.ReadsUnderChipPremises : Prop :=
  ∀ (chip results : List Event → Address → Byte) (s : State) (request : List Event), Ready s →
    s.config.faultTest = .bitset → 200 ≤ s.config.convDelayMs → EnvConv chip results →
    request = s.trace ++ writeEvents 0 0x42 →
    (EnvAutoinc (chip (request ++ [.wait s.config.convDelayMs])) 12 4 s → ∃ t, exec .rdtc s = .next t ∧
      (results request 15 = 0 → t.responses = s.responses ++
        [.okTc (decTc (results request 12) (results request 13) (results request 14))]) ∧
      (∀ k, faultSel .bitset (results request 15) = some k → t.responses = s.responses ++ [.fault k])) ∧
    (EnvAutoinc (chip (request ++ [.wait s.config.convDelayMs])) 9 3 s → ∃ t, exec .rdcj s = .next t ∧
      t.responses = s.responses ++
        [.okCj (decCj (results request 9) (results request 10) (results request 11))]) ∧
    (∀ a n, 9 ≤ a → 0 < n → a + n ≤ 16 → (∀ m, s.config.maxCount = some m → n ≤ m) → ∃ t, exec .reqconv s = .next t ∧
      (EnvAutoinc (chip t.trace) (BitVec.ofNat 4 a) n t → ∃ u, exec (.rdregs a n) t = .next u ∧
        u.responses = t.responses ++
          [.okBytes ((List.range n).map fun k => results request (BitVec.ofNat 4 (a + k)))]))

/-- R57, R60: under `ENV_WRITE`, read as in log 19, the frame of WRREG leaves its value in its register and the others alone, but
that `0x42` to register 0 clears the fault status (another value there leaves register 15 open); the frame of a read leaves all
of them alone. -/
def Obligations.FramesUnderEnvWrite : Prop :=
  (∀ (before after : Address → Byte) (a : Address) (v : Byte), a ≠ 0 →
    (EnvWrite before after (drivesOf .mosi (writeEvents a v)) ↔ after = Function.update before a v)) ∧
  (∀ (before after : Address → Byte) (v : Byte), EnvWrite before after (drivesOf .mosi (writeEvents 0 v)) ↔
    after 0 = v ∧ (v = 0x42 → after 15 = 0) ∧ ∀ b, b ≠ 0 → b ≠ 15 → after b = before b) ∧
  (∀ (before after : Address → Byte) (a : Address) (ls : List Level),
    EnvWrite before after (drivesOf .mosi (readEvents a ls)) ↔ after = before)

/-- R57, R149, R200: REQCONV, RDCJ, RDTC and a WRREG of `0x42` to register 0 each begin with a frame that clears the chip's fault
status (read as in log 19), and RDCJ followed by RDTC clears it twice. -/
def Obligations.EachRequestClearsTheFaultStatus : Prop :=
  ∀ (contents : List Event → Address → Byte) (s : State), Ready s → EnvRequest contents →
    (∀ i : Instr, (match i with
      | .reqconv | .rdcj | .rdtc => True
      | .wrreg a v => a = 0 ∧ v = 0x42
      | _ => False) →
      ∃ t, exec i s = .next t ∧ s.trace ++ writeEvents 0 0x42 <+: t.trace ∧
        contents (s.trace ++ writeEvents 0 0x42) 15 = 0) ∧
    ∃ t u, exec .rdcj s = .next t ∧ exec .rdtc t = .next u ∧
      s.trace ++ writeEvents 0 0x42 <+: t.trace ∧ contents (s.trace ++ writeEvents 0 0x42) 15 = 0 ∧
      t.trace ++ writeEvents 0 0x42 <+: u.trace ∧ contents (t.trace ++ writeEvents 0 0x42) 15 = 0

/-- R235: a data-in line stuck high reads as the fault `CJ_RANGE`, one stuck low as 0.0 degrees with no fault. -/
def Obligations.StuckDataInIsNotDetected : Prop :=
  ∀ s : State, Ready s → s.config.faultTest = .bitset → ∃ t, exec .rdtc s = .next t ∧
    ((∀ i < 32, s.levelAt i = true) → t.responses = s.responses ++ [.fault .cjRange]) ∧
    ((∀ i < 32, s.levelAt i = false) → t.responses = s.responses ++ [.okTc 0])

/-- R26, R41: between operations of a constructed block the pads show chip-select high, clock low and MOSI at the level last
driven. -/
def Obligations.PadsBetweenOperations : Prop :=
  ∀ s : State, IdleInv s → s.inited = true → s.aborted = false →
    s.padLevel .cs = some true ∧ s.padLevel .clk = some false ∧
    s.padLevel .mosi = (drivesOf .mosi s.trace).getLast? ∧ s.padLevel .mosi ≠ none

/-- R120: the residual level of MOSI after each operation, and at the falling clock edges while a read frame receives. -/
def Obligations.ResidualMosiLevel : Prop :=
  (∀ (s t : State) (i : Instr) (l : Option Level), Ready s → admission i s = none → exec i s = .next t →
    (match i with
      | .sendbyte v => l = some (v.testBit 0)
      | .wrreg _ v => l = some (v.testBit 0)
      | .rdregs a _ => l = some (a.testBit 0)
      | .reqconv => l = some false
      | .rdcj => l = some true
      | .rdtc => l = some false
      | _ => l = s.lvl.mosi) → t.lvl.mosi = l) ∧
  (∀ s t : State, ReadyForInit s → exec .init s = .next t → t.lvl.mosi = some true) ∧
  (∀ (a : Address) (ls : List Level) (now : Option Level),
    ∀ l ∈ (mosiAtEdges false now (readEvents a ls)).drop 8, l = some (a.getLsbD 0))
end

