-- ==== Sys2Proof/Laws/Decode.lean ====
section
/-! SUPPORT. The fields of a word built from its fields, and a word rebuilt from its fields. -/

namespace Sys2Proof

/-- A concatenation as a number. -/
theorem toNat_append_eq {n m : Nat} (x : BitVec n) (y : BitVec m) : (x ++ y).toNat = x.toNat * 2 ^ m + y.toNat := by
  rw [BitVec.toNat_append, ← Nat.shiftLeft_add_eq_or_of_lt y.isLt, Nat.shiftLeft_eq]

/-- A field as a number. -/
theorem toNat_field {n : Nat} (start len : Nat) (x : BitVec n) :
    (x.extractLsb' start len).toNat = x.toNat / 2 ^ start % 2 ^ len := by
  rw [BitVec.extractLsb'_toNat, Nat.shiftRight_eq_div_pow]

theorem toNat_cmdWord (op a : BitVec 4) (d : BitVec 8) :
    (cmdWord op a d).toNat = op.toNat * 4096 + a.toNat * 256 + d.toNat := by
  rw [cmdWord, toNat_append_eq, toNat_append_eq]
  omega

@[simp] theorem cmdOp_cmdWord (op a : BitVec 4) (d : BitVec 8) : cmdOp (cmdWord op a d) = op := by
  apply BitVec.eq_of_toNat_eq
  rw [cmdOp, toNat_field, toNat_cmdWord]
  omega

@[simp] theorem cmdA_cmdWord (op a : BitVec 4) (d : BitVec 8) : cmdA (cmdWord op a d) = a := by
  apply BitVec.eq_of_toNat_eq
  rw [cmdA, toNat_field, toNat_cmdWord]
  omega

@[simp] theorem cmdD_cmdWord (op a : BitVec 4) (d : BitVec 8) : cmdD (cmdWord op a d) = d := by
  apply BitVec.eq_of_toNat_eq
  rw [cmdD, toNat_field, toNat_cmdWord]
  omega

/-- No bit of a command word lies outside its three fields (R97). -/
theorem cmdWord_fields (w : Cmd16) : cmdWord (cmdOp w) (cmdA w) (cmdD w) = w := by
  apply BitVec.eq_of_toNat_eq
  rw [toNat_cmdWord, cmdOp, cmdA, cmdD, toNat_field, toNat_field, toNat_field]
  have := w.isLt
  omega

theorem toNat_tcWord (h m l : Byte) :
    (tcWord h m l).toNat = h.toNat * 16777216 + m.toNat * 65536 + l.toNat * 256 := by
  rw [tcWord, toNat_append_eq, toNat_append_eq, toNat_append_eq]
  simp
  omega

theorem toNat_cjWord (o m l : Byte) : (cjWord o m l).toNat = o.toNat * 65536 + m.toNat * 256 + l.toNat := by
  rw [cjWord, toNat_append_eq, toNat_append_eq]
  omega

/-- TC32 carries the three operands of DECTC whole (R86). -/
theorem decodeTc32_tcWord (h m l : Byte) : decodeTc32 (tcWord h m l) = .dectc h m l := by
  rw [decodeTc32, Instr.dectc.injEq]
  refine ⟨?_, ?_, ?_⟩ <;> apply BitVec.eq_of_toNat_eq <;> rw [toNat_field, toNat_tcWord] <;> omega

/-- CJ24 carries the three operands of DECCJ whole (R87). -/
theorem decodeCj24_cjWord (o m l : Byte) : decodeCj24 (cjWord o m l) = .deccj o m l := by
  rw [decodeCj24, Instr.deccj.injEq]
  refine ⟨?_, ?_, ?_⟩ <;> apply BitVec.eq_of_toNat_eq <;> rw [toNat_field, toNat_cjWord] <;> omega

/-! The decoder on a word built from its fields, one lemma for each selector. -/

@[simp] theorem decode_init : decode (.cmd16 (cmdWord 0x0 0 0)) = .ok .init := rfl
@[simp] theorem decode_recvbyte : decode (.cmd16 (cmdWord 0x2 0 0)) = .ok .recvbyte := rfl
@[simp] theorem decode_reqconv : decode (.cmd16 (cmdWord 0x5 0 0)) = .ok .reqconv := rfl
@[simp] theorem decode_rdcj : decode (.cmd16 (cmdWord 0x6 0 0)) = .ok .rdcj := rfl
@[simp] theorem decode_rdtc : decode (.cmd16 (cmdWord 0x7 0 0)) = .ok .rdtc := rfl

@[simp] theorem decode_sendbyte (d : BitVec 8) : decode (.cmd16 (cmdWord 0x1 0 d)) = .ok (.sendbyte d.toNat) := by
  simp [decode, decodeCmd16]

@[simp] theorem decode_wrreg (a : BitVec 4) (d : BitVec 8) :
    decode (.cmd16 (cmdWord 0x3 a d)) = .ok (.wrreg a.toNat d.toNat) := by
  simp [decode, decodeCmd16]

@[simp] theorem decode_rdregs (a : BitVec 4) (d : BitVec 8) :
    decode (.cmd16 (cmdWord 0x4 a d)) = .ok (.rdregs a.toNat d.toNat) := by
  simp [decode, decodeCmd16]

end Sys2Proof
end

