-- ==== Sys2Proof/Laws/State.lean ====
section
/-! SUPPORT. What each update of State leaves in each field: one lemma for each field and update. -/

namespace Sys2Proof.Machine

variable (s : State)

/-! ### setInited -/

@[simp] theorem State.setInited_config : s.setInited.config = s.config := rfl
@[simp] theorem State.setInited_dir : s.setInited.dir = s.dir := rfl
@[simp] theorem State.setInited_lvl : s.setInited.lvl = s.lvl := rfl
@[simp] theorem State.setInited_inited : s.setInited.inited = true := rfl
@[simp] theorem State.setInited_busy : s.setInited.busy = s.busy := rfl
@[simp] theorem State.setInited_seq : s.setInited.seq = s.seq := rfl
@[simp] theorem State.setInited_sr : s.setInited.sr = s.sr := rfl
@[simp] theorem State.setInited_bitcnt : s.setInited.bitcnt = s.bitcnt := rfl
@[simp] theorem State.setInited_bytecnt : s.setInited.bytecnt = s.bytecnt := rfl
@[simp] theorem State.setInited_rb : s.setInited.rb = s.rb := rfl
@[simp] theorem State.setInited_raw : s.setInited.raw = s.raw := rfl
@[simp] theorem State.setInited_q : s.setInited.q = s.q := rfl
@[simp] theorem State.setInited_flt : s.setInited.flt = s.flt := rfl
@[simp] theorem State.setInited_dly : s.setInited.dly = s.dly := rfl
@[simp] theorem State.setInited_aborted : s.setInited.aborted = s.aborted := rfl
@[simp] theorem State.setInited_trace : s.setInited.trace = s.trace := rfl
@[simp] theorem State.setInited_requests : s.setInited.requests = s.requests := rfl
@[simp] theorem State.setInited_responses : s.setInited.responses = s.responses := rfl
@[simp] theorem State.setInited_answers : s.setInited.answers = s.answers := rfl
@[simp] theorem State.setInited_samples : s.setInited.samples = s.samples := rfl
@[simp] theorem State.setInited_failures : s.setInited.failures = s.failures := rfl
@[simp] theorem State.setInited_attempts : s.setInited.attempts = s.attempts := rfl
@[simp] theorem State.setInited_probe : s.setInited.probe = s.probe := rfl
@[simp] theorem State.setInited_results : s.setInited.results = s.results := rfl

/-! ### setBusy -/

@[simp] theorem State.setBusy_config : s.setBusy.config = s.config := rfl
@[simp] theorem State.setBusy_dir : s.setBusy.dir = s.dir := rfl
@[simp] theorem State.setBusy_lvl : s.setBusy.lvl = s.lvl := rfl
@[simp] theorem State.setBusy_inited : s.setBusy.inited = s.inited := rfl
@[simp] theorem State.setBusy_busy : s.setBusy.busy = true := rfl
@[simp] theorem State.setBusy_seq : s.setBusy.seq = s.seq := rfl
@[simp] theorem State.setBusy_sr : s.setBusy.sr = s.sr := rfl
@[simp] theorem State.setBusy_bitcnt : s.setBusy.bitcnt = s.bitcnt := rfl
@[simp] theorem State.setBusy_bytecnt : s.setBusy.bytecnt = s.bytecnt := rfl
@[simp] theorem State.setBusy_rb : s.setBusy.rb = s.rb := rfl
@[simp] theorem State.setBusy_raw : s.setBusy.raw = s.raw := rfl
@[simp] theorem State.setBusy_q : s.setBusy.q = s.q := rfl
@[simp] theorem State.setBusy_flt : s.setBusy.flt = s.flt := rfl
@[simp] theorem State.setBusy_dly : s.setBusy.dly = s.dly := rfl
@[simp] theorem State.setBusy_aborted : s.setBusy.aborted = s.aborted := rfl
@[simp] theorem State.setBusy_trace : s.setBusy.trace = s.trace := rfl
@[simp] theorem State.setBusy_requests : s.setBusy.requests = s.requests := rfl
@[simp] theorem State.setBusy_responses : s.setBusy.responses = s.responses := rfl
@[simp] theorem State.setBusy_answers : s.setBusy.answers = s.answers := rfl
@[simp] theorem State.setBusy_samples : s.setBusy.samples = s.samples := rfl
@[simp] theorem State.setBusy_failures : s.setBusy.failures = s.failures := rfl
@[simp] theorem State.setBusy_attempts : s.setBusy.attempts = s.attempts := rfl
@[simp] theorem State.setBusy_probe : s.setBusy.probe = s.probe := rfl
@[simp] theorem State.setBusy_results : s.setBusy.results = s.results := rfl

/-! ### clearBusy -/

@[simp] theorem State.clearBusy_config : s.clearBusy.config = s.config := rfl
@[simp] theorem State.clearBusy_dir : s.clearBusy.dir = s.dir := rfl
@[simp] theorem State.clearBusy_lvl : s.clearBusy.lvl = s.lvl := rfl
@[simp] theorem State.clearBusy_inited : s.clearBusy.inited = s.inited := rfl
@[simp] theorem State.clearBusy_busy : s.clearBusy.busy = false := rfl
@[simp] theorem State.clearBusy_seq : s.clearBusy.seq = s.seq := rfl
@[simp] theorem State.clearBusy_sr : s.clearBusy.sr = s.sr := rfl
@[simp] theorem State.clearBusy_bitcnt : s.clearBusy.bitcnt = s.bitcnt := rfl
@[simp] theorem State.clearBusy_bytecnt : s.clearBusy.bytecnt = s.bytecnt := rfl
@[simp] theorem State.clearBusy_rb : s.clearBusy.rb = s.rb := rfl
@[simp] theorem State.clearBusy_raw : s.clearBusy.raw = s.raw := rfl
@[simp] theorem State.clearBusy_q : s.clearBusy.q = s.q := rfl
@[simp] theorem State.clearBusy_flt : s.clearBusy.flt = s.flt := rfl
@[simp] theorem State.clearBusy_dly : s.clearBusy.dly = s.dly := rfl
@[simp] theorem State.clearBusy_aborted : s.clearBusy.aborted = s.aborted := rfl
@[simp] theorem State.clearBusy_trace : s.clearBusy.trace = s.trace := rfl
@[simp] theorem State.clearBusy_requests : s.clearBusy.requests = s.requests := rfl
@[simp] theorem State.clearBusy_responses : s.clearBusy.responses = s.responses := rfl
@[simp] theorem State.clearBusy_answers : s.clearBusy.answers = s.answers := rfl
@[simp] theorem State.clearBusy_samples : s.clearBusy.samples = s.samples := rfl
@[simp] theorem State.clearBusy_failures : s.clearBusy.failures = s.failures := rfl
@[simp] theorem State.clearBusy_attempts : s.clearBusy.attempts = s.attempts := rfl
@[simp] theorem State.clearBusy_probe : s.clearBusy.probe = s.probe := rfl
@[simp] theorem State.clearBusy_results : s.clearBusy.results = s.results := rfl

/-! ### spendAnswer -/

@[simp] theorem State.spendAnswer_config : s.spendAnswer.config = s.config := rfl
@[simp] theorem State.spendAnswer_dir : s.spendAnswer.dir = s.dir := rfl
@[simp] theorem State.spendAnswer_lvl : s.spendAnswer.lvl = s.lvl := rfl
@[simp] theorem State.spendAnswer_inited : s.spendAnswer.inited = s.inited := rfl
@[simp] theorem State.spendAnswer_busy : s.spendAnswer.busy = s.busy := rfl
@[simp] theorem State.spendAnswer_seq : s.spendAnswer.seq = s.seq := rfl
@[simp] theorem State.spendAnswer_sr : s.spendAnswer.sr = s.sr := rfl
@[simp] theorem State.spendAnswer_bitcnt : s.spendAnswer.bitcnt = s.bitcnt := rfl
@[simp] theorem State.spendAnswer_bytecnt : s.spendAnswer.bytecnt = s.bytecnt := rfl
@[simp] theorem State.spendAnswer_rb : s.spendAnswer.rb = s.rb := rfl
@[simp] theorem State.spendAnswer_raw : s.spendAnswer.raw = s.raw := rfl
@[simp] theorem State.spendAnswer_q : s.spendAnswer.q = s.q := rfl
@[simp] theorem State.spendAnswer_flt : s.spendAnswer.flt = s.flt := rfl
@[simp] theorem State.spendAnswer_dly : s.spendAnswer.dly = s.dly := rfl
@[simp] theorem State.spendAnswer_aborted : s.spendAnswer.aborted = s.aborted := rfl
@[simp] theorem State.spendAnswer_trace : s.spendAnswer.trace = s.trace := rfl
@[simp] theorem State.spendAnswer_requests : s.spendAnswer.requests = s.requests := rfl
@[simp] theorem State.spendAnswer_responses : s.spendAnswer.responses = s.responses := rfl
@[simp] theorem State.spendAnswer_answers : s.spendAnswer.answers = s.answers.tail := rfl
@[simp] theorem State.spendAnswer_samples : s.spendAnswer.samples = s.samples + 1 := rfl
@[simp] theorem State.spendAnswer_failures : s.spendAnswer.failures = s.failures := rfl
@[simp] theorem State.spendAnswer_attempts : s.spendAnswer.attempts = s.attempts := rfl
@[simp] theorem State.spendAnswer_probe : s.spendAnswer.probe = s.probe := rfl
@[simp] theorem State.spendAnswer_results : s.spendAnswer.results = s.results := rfl

/-! ### spendFailure -/

@[simp] theorem State.spendFailure_config : s.spendFailure.config = s.config := rfl
@[simp] theorem State.spendFailure_dir : s.spendFailure.dir = s.dir := rfl
@[simp] theorem State.spendFailure_lvl : s.spendFailure.lvl = s.lvl := rfl
@[simp] theorem State.spendFailure_inited : s.spendFailure.inited = s.inited := rfl
@[simp] theorem State.spendFailure_busy : s.spendFailure.busy = s.busy := rfl
@[simp] theorem State.spendFailure_seq : s.spendFailure.seq = s.seq := rfl
@[simp] theorem State.spendFailure_sr : s.spendFailure.sr = s.sr := rfl
@[simp] theorem State.spendFailure_bitcnt : s.spendFailure.bitcnt = s.bitcnt := rfl
@[simp] theorem State.spendFailure_bytecnt : s.spendFailure.bytecnt = s.bytecnt := rfl
@[simp] theorem State.spendFailure_rb : s.spendFailure.rb = s.rb := rfl
@[simp] theorem State.spendFailure_raw : s.spendFailure.raw = s.raw := rfl
@[simp] theorem State.spendFailure_q : s.spendFailure.q = s.q := rfl
@[simp] theorem State.spendFailure_flt : s.spendFailure.flt = s.flt := rfl
@[simp] theorem State.spendFailure_dly : s.spendFailure.dly = s.dly := rfl
@[simp] theorem State.spendFailure_aborted : s.spendFailure.aborted = s.aborted := rfl
@[simp] theorem State.spendFailure_trace : s.spendFailure.trace = s.trace := rfl
@[simp] theorem State.spendFailure_requests : s.spendFailure.requests = s.requests := rfl
@[simp] theorem State.spendFailure_responses : s.spendFailure.responses = s.responses := rfl
@[simp] theorem State.spendFailure_answers : s.spendFailure.answers = s.answers := rfl
@[simp] theorem State.spendFailure_samples : s.spendFailure.samples = s.samples := rfl
@[simp] theorem State.spendFailure_failures : s.spendFailure.failures = s.failures.tail := rfl
@[simp] theorem State.spendFailure_attempts : s.spendFailure.attempts = s.attempts + 1 := rfl
@[simp] theorem State.spendFailure_probe : s.spendFailure.probe = s.probe := rfl
@[simp] theorem State.spendFailure_results : s.spendFailure.results = s.results := rfl

/-! ### record -/

@[simp] theorem State.record_config (e : Event) : (s.record e).config = s.config := rfl
@[simp] theorem State.record_dir (e : Event) : (s.record e).dir = s.dir := rfl
@[simp] theorem State.record_lvl (e : Event) : (s.record e).lvl = s.lvl := rfl
@[simp] theorem State.record_inited (e : Event) : (s.record e).inited = s.inited := rfl
@[simp] theorem State.record_busy (e : Event) : (s.record e).busy = s.busy := rfl
@[simp] theorem State.record_seq (e : Event) : (s.record e).seq = s.seq.advance := rfl
@[simp] theorem State.record_sr (e : Event) : (s.record e).sr = s.sr := rfl
@[simp] theorem State.record_bitcnt (e : Event) : (s.record e).bitcnt = s.bitcnt := rfl
@[simp] theorem State.record_bytecnt (e : Event) : (s.record e).bytecnt = s.bytecnt := rfl
@[simp] theorem State.record_rb (e : Event) : (s.record e).rb = s.rb := rfl
@[simp] theorem State.record_raw (e : Event) : (s.record e).raw = s.raw := rfl
@[simp] theorem State.record_q (e : Event) : (s.record e).q = s.q := rfl
@[simp] theorem State.record_flt (e : Event) : (s.record e).flt = s.flt := rfl
@[simp] theorem State.record_dly (e : Event) : (s.record e).dly = s.dly := rfl
@[simp] theorem State.record_aborted (e : Event) : (s.record e).aborted = s.aborted := rfl
@[simp] theorem State.record_trace (e : Event) : (s.record e).trace = s.trace ++ [e] := rfl
@[simp] theorem State.record_requests (e : Event) : (s.record e).requests = s.requests := rfl
@[simp] theorem State.record_responses (e : Event) : (s.record e).responses = s.responses := rfl
@[simp] theorem State.record_answers (e : Event) : (s.record e).answers = s.answers := rfl
@[simp] theorem State.record_samples (e : Event) : (s.record e).samples = s.samples := rfl
@[simp] theorem State.record_failures (e : Event) : (s.record e).failures = s.failures := rfl
@[simp] theorem State.record_attempts (e : Event) : (s.record e).attempts = s.attempts := rfl
@[simp] theorem State.record_probe (e : Event) : (s.record e).probe = s.probe := rfl
@[simp] theorem State.record_results (e : Event) : (s.record e).results = s.results := rfl

/-! ### failPort -/

@[simp] theorem State.failPort_config : s.failPort.config = s.config := rfl
@[simp] theorem State.failPort_dir : s.failPort.dir = ⟨none, none, none, none⟩ := rfl
@[simp] theorem State.failPort_lvl : s.failPort.lvl = ⟨none, none, none⟩ := rfl
@[simp] theorem State.failPort_inited : s.failPort.inited = s.inited := rfl
@[simp] theorem State.failPort_busy : s.failPort.busy = s.busy := rfl
@[simp] theorem State.failPort_seq : s.failPort.seq = s.seq := rfl
@[simp] theorem State.failPort_sr : s.failPort.sr = s.sr := rfl
@[simp] theorem State.failPort_bitcnt : s.failPort.bitcnt = s.bitcnt := rfl
@[simp] theorem State.failPort_bytecnt : s.failPort.bytecnt = s.bytecnt := rfl
@[simp] theorem State.failPort_rb : s.failPort.rb = s.rb := rfl
@[simp] theorem State.failPort_raw : s.failPort.raw = s.raw := rfl
@[simp] theorem State.failPort_q : s.failPort.q = s.q := rfl
@[simp] theorem State.failPort_flt : s.failPort.flt = s.flt := rfl
@[simp] theorem State.failPort_dly : s.failPort.dly = s.dly := rfl
@[simp] theorem State.failPort_aborted : s.failPort.aborted = true := rfl
@[simp] theorem State.failPort_trace : s.failPort.trace = s.trace := rfl
@[simp] theorem State.failPort_requests : s.failPort.requests = s.requests := rfl
@[simp] theorem State.failPort_responses : s.failPort.responses = s.responses := rfl
@[simp] theorem State.failPort_answers : s.failPort.answers = s.answers := rfl
@[simp] theorem State.failPort_samples : s.failPort.samples = s.samples := rfl
@[simp] theorem State.failPort_failures : s.failPort.failures = s.failures := rfl
@[simp] theorem State.failPort_attempts : s.failPort.attempts = s.attempts := rfl
@[simp] theorem State.failPort_probe : s.failPort.probe = s.probe := rfl
@[simp] theorem State.failPort_results : s.failPort.results = s.results := rfl

/-! ### writeTc -/

@[simp] theorem State.writeTc_config (h m l : Byte) : (s.writeTc h m l).config = s.config := rfl
@[simp] theorem State.writeTc_dir (h m l : Byte) : (s.writeTc h m l).dir = s.dir := rfl
@[simp] theorem State.writeTc_lvl (h m l : Byte) : (s.writeTc h m l).lvl = s.lvl := rfl
@[simp] theorem State.writeTc_inited (h m l : Byte) : (s.writeTc h m l).inited = s.inited := rfl
@[simp] theorem State.writeTc_busy (h m l : Byte) : (s.writeTc h m l).busy = s.busy := rfl
@[simp] theorem State.writeTc_seq (h m l : Byte) : (s.writeTc h m l).seq = s.seq := rfl
@[simp] theorem State.writeTc_sr (h m l : Byte) : (s.writeTc h m l).sr = s.sr := rfl
@[simp] theorem State.writeTc_bitcnt (h m l : Byte) : (s.writeTc h m l).bitcnt = s.bitcnt := rfl
@[simp] theorem State.writeTc_bytecnt (h m l : Byte) : (s.writeTc h m l).bytecnt = s.bytecnt := rfl
@[simp] theorem State.writeTc_rb (h m l : Byte) : (s.writeTc h m l).rb = s.rb := rfl
@[simp] theorem State.writeTc_raw (h m l : Byte) : (s.writeTc h m l).raw = some (tcRaw h m l) := rfl
@[simp] theorem State.writeTc_q (h m l : Byte) : (s.writeTc h m l).q = some (decTc h m l) := rfl
@[simp] theorem State.writeTc_flt (h m l : Byte) : (s.writeTc h m l).flt = s.flt := rfl
@[simp] theorem State.writeTc_dly (h m l : Byte) : (s.writeTc h m l).dly = s.dly := rfl
@[simp] theorem State.writeTc_aborted (h m l : Byte) : (s.writeTc h m l).aborted = s.aborted := rfl
@[simp] theorem State.writeTc_trace (h m l : Byte) : (s.writeTc h m l).trace = s.trace := rfl
@[simp] theorem State.writeTc_requests (h m l : Byte) : (s.writeTc h m l).requests = s.requests := rfl
@[simp] theorem State.writeTc_responses (h m l : Byte) : (s.writeTc h m l).responses = s.responses := rfl
@[simp] theorem State.writeTc_answers (h m l : Byte) : (s.writeTc h m l).answers = s.answers := rfl
@[simp] theorem State.writeTc_samples (h m l : Byte) : (s.writeTc h m l).samples = s.samples := rfl
@[simp] theorem State.writeTc_failures (h m l : Byte) : (s.writeTc h m l).failures = s.failures := rfl
@[simp] theorem State.writeTc_attempts (h m l : Byte) : (s.writeTc h m l).attempts = s.attempts := rfl
@[simp] theorem State.writeTc_probe (h m l : Byte) : (s.writeTc h m l).probe = s.probe := rfl
@[simp] theorem State.writeTc_results (h m l : Byte) : (s.writeTc h m l).results = s.results := rfl

/-! ### writeCj -/

@[simp] theorem State.writeCj_config (o m l : Byte) : (s.writeCj o m l).config = s.config := rfl
@[simp] theorem State.writeCj_dir (o m l : Byte) : (s.writeCj o m l).dir = s.dir := rfl
@[simp] theorem State.writeCj_lvl (o m l : Byte) : (s.writeCj o m l).lvl = s.lvl := rfl
@[simp] theorem State.writeCj_inited (o m l : Byte) : (s.writeCj o m l).inited = s.inited := rfl
@[simp] theorem State.writeCj_busy (o m l : Byte) : (s.writeCj o m l).busy = s.busy := rfl
@[simp] theorem State.writeCj_seq (o m l : Byte) : (s.writeCj o m l).seq = s.seq := rfl
@[simp] theorem State.writeCj_sr (o m l : Byte) : (s.writeCj o m l).sr = s.sr := rfl
@[simp] theorem State.writeCj_bitcnt (o m l : Byte) : (s.writeCj o m l).bitcnt = s.bitcnt := rfl
@[simp] theorem State.writeCj_bytecnt (o m l : Byte) : (s.writeCj o m l).bytecnt = s.bytecnt := rfl
@[simp] theorem State.writeCj_rb (o m l : Byte) : (s.writeCj o m l).rb = s.rb := rfl
@[simp] theorem State.writeCj_raw (o m l : Byte) : (s.writeCj o m l).raw = some (cjRaw m l) := rfl
@[simp] theorem State.writeCj_q (o m l : Byte) : (s.writeCj o m l).q = some ((decCj o m l).setWidth 19) := rfl
@[simp] theorem State.writeCj_flt (o m l : Byte) : (s.writeCj o m l).flt = s.flt := rfl
@[simp] theorem State.writeCj_dly (o m l : Byte) : (s.writeCj o m l).dly = s.dly := rfl
@[simp] theorem State.writeCj_aborted (o m l : Byte) : (s.writeCj o m l).aborted = s.aborted := rfl
@[simp] theorem State.writeCj_trace (o m l : Byte) : (s.writeCj o m l).trace = s.trace := rfl
@[simp] theorem State.writeCj_requests (o m l : Byte) : (s.writeCj o m l).requests = s.requests := rfl
@[simp] theorem State.writeCj_responses (o m l : Byte) : (s.writeCj o m l).responses = s.responses := rfl
@[simp] theorem State.writeCj_answers (o m l : Byte) : (s.writeCj o m l).answers = s.answers := rfl
@[simp] theorem State.writeCj_samples (o m l : Byte) : (s.writeCj o m l).samples = s.samples := rfl
@[simp] theorem State.writeCj_failures (o m l : Byte) : (s.writeCj o m l).failures = s.failures := rfl
@[simp] theorem State.writeCj_attempts (o m l : Byte) : (s.writeCj o m l).attempts = s.attempts := rfl
@[simp] theorem State.writeCj_probe (o m l : Byte) : (s.writeCj o m l).probe = s.probe := rfl
@[simp] theorem State.writeCj_results (o m l : Byte) : (s.writeCj o m l).results = s.results := rfl

/-! ### clearTransients -/

@[simp] theorem State.clearTransients_config : s.clearTransients.config = s.config := rfl
@[simp] theorem State.clearTransients_dir : s.clearTransients.dir = s.dir := rfl
@[simp] theorem State.clearTransients_lvl : s.clearTransients.lvl = s.lvl := rfl
@[simp] theorem State.clearTransients_inited : s.clearTransients.inited = s.inited := rfl
@[simp] theorem State.clearTransients_busy : s.clearTransients.busy = s.busy := rfl
@[simp] theorem State.clearTransients_seq : s.clearTransients.seq = s.seq := rfl
@[simp] theorem State.clearTransients_sr : s.clearTransients.sr = none := rfl
@[simp] theorem State.clearTransients_bitcnt : s.clearTransients.bitcnt = none := rfl
@[simp] theorem State.clearTransients_bytecnt : s.clearTransients.bytecnt = none := rfl
@[simp] theorem State.clearTransients_rb : s.clearTransients.rb = [] := rfl
@[simp] theorem State.clearTransients_raw : s.clearTransients.raw = none := rfl
@[simp] theorem State.clearTransients_q : s.clearTransients.q = none := rfl
@[simp] theorem State.clearTransients_flt : s.clearTransients.flt = none := rfl
@[simp] theorem State.clearTransients_dly : s.clearTransients.dly = none := rfl
@[simp] theorem State.clearTransients_aborted : s.clearTransients.aborted = s.aborted := rfl
@[simp] theorem State.clearTransients_trace : s.clearTransients.trace = s.trace := rfl
@[simp] theorem State.clearTransients_requests : s.clearTransients.requests = s.requests := rfl
@[simp] theorem State.clearTransients_responses : s.clearTransients.responses = s.responses := rfl
@[simp] theorem State.clearTransients_answers : s.clearTransients.answers = s.answers := rfl
@[simp] theorem State.clearTransients_samples : s.clearTransients.samples = s.samples := rfl
@[simp] theorem State.clearTransients_failures : s.clearTransients.failures = s.failures := rfl
@[simp] theorem State.clearTransients_attempts : s.clearTransients.attempts = s.attempts := rfl
@[simp] theorem State.clearTransients_probe : s.clearTransients.probe = s.probe := rfl
@[simp] theorem State.clearTransients_results : s.clearTransients.results = s.results := rfl

/-! ### answer -/

@[simp] theorem State.answer_config (r : Response) : (s.answer r).config = s.config := rfl
@[simp] theorem State.answer_dir (r : Response) : (s.answer r).dir = s.dir := rfl
@[simp] theorem State.answer_lvl (r : Response) : (s.answer r).lvl = s.lvl := rfl
@[simp] theorem State.answer_inited (r : Response) : (s.answer r).inited = s.inited := rfl
@[simp] theorem State.answer_busy (r : Response) : (s.answer r).busy = s.busy := rfl
@[simp] theorem State.answer_seq (r : Response) : (s.answer r).seq = s.seq := rfl
@[simp] theorem State.answer_sr (r : Response) : (s.answer r).sr = s.sr := rfl
@[simp] theorem State.answer_bitcnt (r : Response) : (s.answer r).bitcnt = s.bitcnt := rfl
@[simp] theorem State.answer_bytecnt (r : Response) : (s.answer r).bytecnt = s.bytecnt := rfl
@[simp] theorem State.answer_rb (r : Response) : (s.answer r).rb = s.rb := rfl
@[simp] theorem State.answer_raw (r : Response) : (s.answer r).raw = s.raw := rfl
@[simp] theorem State.answer_q (r : Response) : (s.answer r).q = s.q := rfl
@[simp] theorem State.answer_flt (r : Response) : (s.answer r).flt = s.flt := rfl
@[simp] theorem State.answer_dly (r : Response) : (s.answer r).dly = s.dly := rfl
@[simp] theorem State.answer_aborted (r : Response) : (s.answer r).aborted = s.aborted := rfl
@[simp] theorem State.answer_trace (r : Response) : (s.answer r).trace = s.trace := rfl
@[simp] theorem State.answer_requests (r : Response) : (s.answer r).requests = s.requests := rfl
@[simp] theorem State.answer_responses (r : Response) : (s.answer r).responses = s.responses ++ [r] := rfl
@[simp] theorem State.answer_answers (r : Response) : (s.answer r).answers = s.answers := rfl
@[simp] theorem State.answer_samples (r : Response) : (s.answer r).samples = s.samples := rfl
@[simp] theorem State.answer_failures (r : Response) : (s.answer r).failures = s.failures := rfl
@[simp] theorem State.answer_attempts (r : Response) : (s.answer r).attempts = s.attempts := rfl
@[simp] theorem State.answer_probe (r : Response) : (s.answer r).probe = s.probe := rfl
@[simp] theorem State.answer_results (r : Response) : (s.answer r).results = s.results := rfl

/-! ### accept -/

@[simp] theorem State.accept_config (op : Instr) : (s.accept op).config = s.config := rfl
@[simp] theorem State.accept_dir (op : Instr) : (s.accept op).dir = s.dir := rfl
@[simp] theorem State.accept_lvl (op : Instr) : (s.accept op).lvl = s.lvl := rfl
@[simp] theorem State.accept_inited (op : Instr) : (s.accept op).inited = s.inited := rfl
@[simp] theorem State.accept_busy (op : Instr) : (s.accept op).busy = true := rfl
@[simp] theorem State.accept_seq (op : Instr) : (s.accept op).seq = .running op 0 := rfl
@[simp] theorem State.accept_sr (op : Instr) : (s.accept op).sr = none := rfl
@[simp] theorem State.accept_bitcnt (op : Instr) : (s.accept op).bitcnt = none := rfl
@[simp] theorem State.accept_bytecnt (op : Instr) : (s.accept op).bytecnt = none := rfl
@[simp] theorem State.accept_rb (op : Instr) : (s.accept op).rb = [] := rfl
@[simp] theorem State.accept_raw (op : Instr) : (s.accept op).raw = none := rfl
@[simp] theorem State.accept_q (op : Instr) : (s.accept op).q = none := rfl
@[simp] theorem State.accept_flt (op : Instr) : (s.accept op).flt = none := rfl
@[simp] theorem State.accept_dly (op : Instr) : (s.accept op).dly = none := rfl
@[simp] theorem State.accept_aborted (op : Instr) : (s.accept op).aborted = s.aborted := rfl
@[simp] theorem State.accept_trace (op : Instr) : (s.accept op).trace = s.trace := rfl
@[simp] theorem State.accept_requests (op : Instr) : (s.accept op).requests = s.requests := rfl
@[simp] theorem State.accept_responses (op : Instr) : (s.accept op).responses = s.responses := rfl
@[simp] theorem State.accept_answers (op : Instr) : (s.accept op).answers = s.answers := rfl
@[simp] theorem State.accept_samples (op : Instr) : (s.accept op).samples = s.samples := rfl
@[simp] theorem State.accept_failures (op : Instr) : (s.accept op).failures = s.failures := rfl
@[simp] theorem State.accept_attempts (op : Instr) : (s.accept op).attempts = s.attempts := rfl
@[simp] theorem State.accept_probe (op : Instr) : (s.accept op).probe = s.probe := rfl
@[simp] theorem State.accept_results (op : Instr) : (s.accept op).results = s.results := rfl

/-! ### release -/

@[simp] theorem State.release_config : s.release.config = s.config := rfl
@[simp] theorem State.release_dir : s.release.dir = s.dir := rfl
@[simp] theorem State.release_lvl : s.release.lvl = s.lvl := rfl
@[simp] theorem State.release_inited : s.release.inited = s.inited := rfl
@[simp] theorem State.release_busy : s.release.busy = false := rfl
@[simp] theorem State.release_seq : s.release.seq = .idle := rfl
@[simp] theorem State.release_sr : s.release.sr = none := rfl
@[simp] theorem State.release_bitcnt : s.release.bitcnt = none := rfl
@[simp] theorem State.release_bytecnt : s.release.bytecnt = none := rfl
@[simp] theorem State.release_rb : s.release.rb = [] := rfl
@[simp] theorem State.release_raw : s.release.raw = none := rfl
@[simp] theorem State.release_q : s.release.q = none := rfl
@[simp] theorem State.release_flt : s.release.flt = none := rfl
@[simp] theorem State.release_dly : s.release.dly = none := rfl
@[simp] theorem State.release_aborted : s.release.aborted = s.aborted := rfl
@[simp] theorem State.release_trace : s.release.trace = s.trace := rfl
@[simp] theorem State.release_requests : s.release.requests = s.requests := rfl
@[simp] theorem State.release_responses : s.release.responses = s.responses := rfl
@[simp] theorem State.release_answers : s.release.answers = s.answers := rfl
@[simp] theorem State.release_samples : s.release.samples = s.samples := rfl
@[simp] theorem State.release_failures : s.release.failures = s.failures := rfl
@[simp] theorem State.release_attempts : s.release.attempts = s.attempts := rfl
@[simp] theorem State.release_probe : s.release.probe = s.probe := rfl
@[simp] theorem State.release_results : s.release.results = s.results := rfl

/-! ### respond -/

@[simp] theorem State.respond_config (r : Response) : (s.respond r).config = s.config := rfl
@[simp] theorem State.respond_dir (r : Response) : (s.respond r).dir = s.dir := rfl
@[simp] theorem State.respond_lvl (r : Response) : (s.respond r).lvl = s.lvl := rfl
@[simp] theorem State.respond_inited (r : Response) : (s.respond r).inited = s.inited := rfl
@[simp] theorem State.respond_busy (r : Response) : (s.respond r).busy = false := rfl
@[simp] theorem State.respond_seq (r : Response) : (s.respond r).seq = .idle := rfl
@[simp] theorem State.respond_sr (r : Response) : (s.respond r).sr = none := rfl
@[simp] theorem State.respond_bitcnt (r : Response) : (s.respond r).bitcnt = none := rfl
@[simp] theorem State.respond_bytecnt (r : Response) : (s.respond r).bytecnt = none := rfl
@[simp] theorem State.respond_rb (r : Response) : (s.respond r).rb = [] := rfl
@[simp] theorem State.respond_raw (r : Response) : (s.respond r).raw = none := rfl
@[simp] theorem State.respond_q (r : Response) : (s.respond r).q = none := rfl
@[simp] theorem State.respond_flt (r : Response) : (s.respond r).flt = none := rfl
@[simp] theorem State.respond_dly (r : Response) : (s.respond r).dly = none := rfl
@[simp] theorem State.respond_aborted (r : Response) : (s.respond r).aborted = s.aborted := rfl
@[simp] theorem State.respond_trace (r : Response) : (s.respond r).trace = s.trace := rfl
@[simp] theorem State.respond_requests (r : Response) : (s.respond r).requests = s.requests := rfl
@[simp] theorem State.respond_responses (r : Response) : (s.respond r).responses = s.responses ++ [r] := rfl
@[simp] theorem State.respond_answers (r : Response) : (s.respond r).answers = s.answers := rfl
@[simp] theorem State.respond_samples (r : Response) : (s.respond r).samples = s.samples := rfl
@[simp] theorem State.respond_failures (r : Response) : (s.respond r).failures = s.failures := rfl
@[simp] theorem State.respond_attempts (r : Response) : (s.respond r).attempts = s.attempts := rfl
@[simp] theorem State.respond_probe (r : Response) : (s.respond r).probe = s.probe := rfl
@[simp] theorem State.respond_results (r : Response) : (s.respond r).results = s.results := rfl

/-! ### refuse -/

@[simp] theorem State.refuse_config (y : RefuseReason) : (s.refuse y).config = s.config := rfl
@[simp] theorem State.refuse_dir (y : RefuseReason) : (s.refuse y).dir = s.dir := rfl
@[simp] theorem State.refuse_lvl (y : RefuseReason) : (s.refuse y).lvl = s.lvl := rfl
@[simp] theorem State.refuse_inited (y : RefuseReason) : (s.refuse y).inited = s.inited := rfl
@[simp] theorem State.refuse_busy (y : RefuseReason) : (s.refuse y).busy = s.busy := rfl
@[simp] theorem State.refuse_seq (y : RefuseReason) : (s.refuse y).seq = s.seq := rfl
@[simp] theorem State.refuse_sr (y : RefuseReason) : (s.refuse y).sr = s.sr := rfl
@[simp] theorem State.refuse_bitcnt (y : RefuseReason) : (s.refuse y).bitcnt = s.bitcnt := rfl
@[simp] theorem State.refuse_bytecnt (y : RefuseReason) : (s.refuse y).bytecnt = s.bytecnt := rfl
@[simp] theorem State.refuse_rb (y : RefuseReason) : (s.refuse y).rb = s.rb := rfl
@[simp] theorem State.refuse_raw (y : RefuseReason) : (s.refuse y).raw = s.raw := rfl
@[simp] theorem State.refuse_q (y : RefuseReason) : (s.refuse y).q = s.q := rfl
@[simp] theorem State.refuse_flt (y : RefuseReason) : (s.refuse y).flt = s.flt := rfl
@[simp] theorem State.refuse_dly (y : RefuseReason) : (s.refuse y).dly = s.dly := rfl
@[simp] theorem State.refuse_aborted (y : RefuseReason) : (s.refuse y).aborted = s.aborted := rfl
@[simp] theorem State.refuse_trace (y : RefuseReason) : (s.refuse y).trace = s.trace := rfl
@[simp] theorem State.refuse_requests (y : RefuseReason) : (s.refuse y).requests = s.requests := rfl
@[simp] theorem State.refuse_responses (y : RefuseReason) : (s.refuse y).responses = s.responses ++ [.refused y] := rfl
@[simp] theorem State.refuse_answers (y : RefuseReason) : (s.refuse y).answers = s.answers := rfl
@[simp] theorem State.refuse_samples (y : RefuseReason) : (s.refuse y).samples = s.samples := rfl
@[simp] theorem State.refuse_failures (y : RefuseReason) : (s.refuse y).failures = s.failures := rfl
@[simp] theorem State.refuse_attempts (y : RefuseReason) : (s.refuse y).attempts = s.attempts := rfl
@[simp] theorem State.refuse_probe (y : RefuseReason) : (s.refuse y).probe = s.probe := rfl
@[simp] theorem State.refuse_results (y : RefuseReason) : (s.refuse y).results = s.results := rfl

/-! ### yield -/

@[simp] theorem State.yield_config (x : FunctionResult) : (s.yield x).config = s.config := rfl
@[simp] theorem State.yield_dir (x : FunctionResult) : (s.yield x).dir = s.dir := rfl
@[simp] theorem State.yield_lvl (x : FunctionResult) : (s.yield x).lvl = s.lvl := rfl
@[simp] theorem State.yield_inited (x : FunctionResult) : (s.yield x).inited = s.inited := rfl
@[simp] theorem State.yield_busy (x : FunctionResult) : (s.yield x).busy = s.busy := rfl
@[simp] theorem State.yield_seq (x : FunctionResult) : (s.yield x).seq = s.seq := rfl
@[simp] theorem State.yield_sr (x : FunctionResult) : (s.yield x).sr = s.sr := rfl
@[simp] theorem State.yield_bitcnt (x : FunctionResult) : (s.yield x).bitcnt = s.bitcnt := rfl
@[simp] theorem State.yield_bytecnt (x : FunctionResult) : (s.yield x).bytecnt = s.bytecnt := rfl
@[simp] theorem State.yield_rb (x : FunctionResult) : (s.yield x).rb = s.rb := rfl
@[simp] theorem State.yield_raw (x : FunctionResult) : (s.yield x).raw = s.raw := rfl
@[simp] theorem State.yield_q (x : FunctionResult) : (s.yield x).q = s.q := rfl
@[simp] theorem State.yield_flt (x : FunctionResult) : (s.yield x).flt = s.flt := rfl
@[simp] theorem State.yield_dly (x : FunctionResult) : (s.yield x).dly = s.dly := rfl
@[simp] theorem State.yield_aborted (x : FunctionResult) : (s.yield x).aborted = s.aborted := rfl
@[simp] theorem State.yield_trace (x : FunctionResult) : (s.yield x).trace = s.trace := rfl
@[simp] theorem State.yield_requests (x : FunctionResult) : (s.yield x).requests = s.requests := rfl
@[simp] theorem State.yield_responses (x : FunctionResult) : (s.yield x).responses = s.responses := rfl
@[simp] theorem State.yield_answers (x : FunctionResult) : (s.yield x).answers = s.answers := rfl
@[simp] theorem State.yield_samples (x : FunctionResult) : (s.yield x).samples = s.samples := rfl
@[simp] theorem State.yield_failures (x : FunctionResult) : (s.yield x).failures = s.failures := rfl
@[simp] theorem State.yield_attempts (x : FunctionResult) : (s.yield x).attempts = s.attempts := rfl
@[simp] theorem State.yield_probe (x : FunctionResult) : (s.yield x).probe = s.probe := rfl
@[simp] theorem State.yield_results (x : FunctionResult) : (s.yield x).results = s.results ++ [x] := rfl

/-! ### present_cmd16 -/

@[simp] theorem State.present_cmd16_config (w : Cmd16) : (s.present (.cmd16 w)).config = s.config := rfl
@[simp] theorem State.present_cmd16_dir (w : Cmd16) : (s.present (.cmd16 w)).dir = s.dir := rfl
@[simp] theorem State.present_cmd16_lvl (w : Cmd16) : (s.present (.cmd16 w)).lvl = s.lvl := rfl
@[simp] theorem State.present_cmd16_inited (w : Cmd16) : (s.present (.cmd16 w)).inited = s.inited := rfl
@[simp] theorem State.present_cmd16_busy (w : Cmd16) : (s.present (.cmd16 w)).busy = false := rfl
@[simp] theorem State.present_cmd16_seq (w : Cmd16) : (s.present (.cmd16 w)).seq = .idle := rfl
@[simp] theorem State.present_cmd16_sr (w : Cmd16) : (s.present (.cmd16 w)).sr = s.sr := rfl
@[simp] theorem State.present_cmd16_bitcnt (w : Cmd16) : (s.present (.cmd16 w)).bitcnt = s.bitcnt := rfl
@[simp] theorem State.present_cmd16_bytecnt (w : Cmd16) : (s.present (.cmd16 w)).bytecnt = s.bytecnt := rfl
@[simp] theorem State.present_cmd16_rb (w : Cmd16) : (s.present (.cmd16 w)).rb = s.rb := rfl
@[simp] theorem State.present_cmd16_raw (w : Cmd16) : (s.present (.cmd16 w)).raw = s.raw := rfl
@[simp] theorem State.present_cmd16_q (w : Cmd16) : (s.present (.cmd16 w)).q = s.q := rfl
@[simp] theorem State.present_cmd16_flt (w : Cmd16) : (s.present (.cmd16 w)).flt = s.flt := rfl
@[simp] theorem State.present_cmd16_dly (w : Cmd16) : (s.present (.cmd16 w)).dly = s.dly := rfl
@[simp] theorem State.present_cmd16_aborted (w : Cmd16) : (s.present (.cmd16 w)).aborted = s.aborted := rfl
@[simp] theorem State.present_cmd16_trace (w : Cmd16) : (s.present (.cmd16 w)).trace = s.trace := rfl
@[simp] theorem State.present_cmd16_requests (w : Cmd16) : (s.present (.cmd16 w)).requests = .word w :: s.requests := rfl
@[simp] theorem State.present_cmd16_responses (w : Cmd16) : (s.present (.cmd16 w)).responses = s.responses := rfl
@[simp] theorem State.present_cmd16_answers (w : Cmd16) : (s.present (.cmd16 w)).answers = s.answers := rfl
@[simp] theorem State.present_cmd16_samples (w : Cmd16) : (s.present (.cmd16 w)).samples = s.samples := rfl
@[simp] theorem State.present_cmd16_failures (w : Cmd16) : (s.present (.cmd16 w)).failures = s.failures := rfl
@[simp] theorem State.present_cmd16_attempts (w : Cmd16) : (s.present (.cmd16 w)).attempts = s.attempts := rfl
@[simp] theorem State.present_cmd16_probe (w : Cmd16) : (s.present (.cmd16 w)).probe = none := rfl
@[simp] theorem State.present_cmd16_results (w : Cmd16) : (s.present (.cmd16 w)).results = s.results := rfl

/-! ### present_data -/

@[simp] theorem State.present_data_config (d : DataWord) : (s.present (.data d)).config = s.config := rfl
@[simp] theorem State.present_data_dir (d : DataWord) : (s.present (.data d)).dir = s.dir := rfl
@[simp] theorem State.present_data_lvl (d : DataWord) : (s.present (.data d)).lvl = s.lvl := rfl
@[simp] theorem State.present_data_inited (d : DataWord) : (s.present (.data d)).inited = s.inited := rfl
@[simp] theorem State.present_data_busy (d : DataWord) : (s.present (.data d)).busy = false := rfl
@[simp] theorem State.present_data_seq (d : DataWord) : (s.present (.data d)).seq = .idle := rfl
@[simp] theorem State.present_data_sr (d : DataWord) : (s.present (.data d)).sr = s.sr := rfl
@[simp] theorem State.present_data_bitcnt (d : DataWord) : (s.present (.data d)).bitcnt = s.bitcnt := rfl
@[simp] theorem State.present_data_bytecnt (d : DataWord) : (s.present (.data d)).bytecnt = s.bytecnt := rfl
@[simp] theorem State.present_data_rb (d : DataWord) : (s.present (.data d)).rb = s.rb := rfl
@[simp] theorem State.present_data_raw (d : DataWord) : (s.present (.data d)).raw = s.raw := rfl
@[simp] theorem State.present_data_q (d : DataWord) : (s.present (.data d)).q = s.q := rfl
@[simp] theorem State.present_data_flt (d : DataWord) : (s.present (.data d)).flt = s.flt := rfl
@[simp] theorem State.present_data_dly (d : DataWord) : (s.present (.data d)).dly = s.dly := rfl
@[simp] theorem State.present_data_aborted (d : DataWord) : (s.present (.data d)).aborted = s.aborted := rfl
@[simp] theorem State.present_data_trace (d : DataWord) : (s.present (.data d)).trace = s.trace := rfl
@[simp] theorem State.present_data_requests (d : DataWord) : (s.present (.data d)).requests = s.requests := rfl
@[simp] theorem State.present_data_responses (d : DataWord) : (s.present (.data d)).responses = s.responses := rfl
@[simp] theorem State.present_data_answers (d : DataWord) : (s.present (.data d)).answers = s.answers := rfl
@[simp] theorem State.present_data_samples (d : DataWord) : (s.present (.data d)).samples = s.samples := rfl
@[simp] theorem State.present_data_failures (d : DataWord) : (s.present (.data d)).failures = s.failures := rfl
@[simp] theorem State.present_data_attempts (d : DataWord) : (s.present (.data d)).attempts = s.attempts := rfl
@[simp] theorem State.present_data_probe (d : DataWord) : (s.present (.data d)).probe = some d := rfl
@[simp] theorem State.present_data_results (d : DataWord) : (s.present (.data d)).results = s.results := rfl

end Sys2Proof.Machine
end

