-- ==== Sys2Proof/Laws/Ops.lean ====
section
/-! SUPPORT. What each shared operation of Machine/Ops.lean can do, said once. -/

namespace Sys2Proof.Machine

/-! ### The environment's answers -/

theorem levelAt_congr {s t : State} (ha : t.answers = s.answers) (hn : t.samples = s.samples) (j : Nat) :
    t.levelAt j = s.levelAt j := by
  simp [State.levelAt, ha, hn]

/-- After some samples the next levels are the later ones. -/
theorem levelAt_drop {s t : State} {n : Nat} (ha : t.answers = s.answers.drop n) (hn : t.samples = s.samples + n)
    (j : Nat) : t.levelAt j = s.levelAt (n + j) := by
  simp [State.levelAt, ha, hn, Nat.add_assoc]

@[simp] theorem length_levels (s : State) (n : Nat) : (s.levels n).length = n := by
  simp [State.levels]

theorem levels_congr {s t : State} (ha : t.answers = s.answers) (hn : t.samples = s.samples) (n : Nat) :
    t.levels n = s.levels n := by
  have : t.levelAt = s.levelAt := funext (levelAt_congr ha hn)
  simp [State.levels, this]

theorem levels_add (s : State) (n m : Nat) :
    s.levels (n + m) = s.levels n ++ (List.range m).map fun j => s.levelAt (n + j) := by
  simp [State.levels, List.range_add, Function.comp_def]

theorem levels_drop {s t : State} {n : Nat} (ha : t.answers = s.answers.drop n) (hn : t.samples = s.samples + n)
    (m : Nat) : s.levels (n + m) = s.levels n ++ t.levels m := by
  rw [levels_add]
  congr 1
  have : t.levelAt = fun j => s.levelAt (n + j) := funext (levelAt_drop ha hn)
  simp [State.levels, this]

/-- After one port event the next failures are the later ones. -/
theorem failsAt_succ {s t : State} (hf : t.failures = s.failures.tail) (hn : t.attempts = s.attempts + 1) (j : Nat) :
    t.failsAt j = s.failsAt (j + 1) := by
  simp [State.failsAt, hf, hn, Nat.add_assoc, Nat.add_comm 1]

theorem failsAt_congr {s t : State} (hf : t.failures = s.failures) (hn : t.attempts = s.attempts) (j : Nat) :
    t.failsAt j = s.failsAt j := by
  simp [State.failsAt, hf, hn]

/-! ### Emitting -/

/-- Where the port cannot fail, a request takes its effect. -/
theorem emit_sound {s : State} (h : s.config.portCanFail = false) (p : Port) : emit p s = s.performPort p := by
  simp [emit, h]

/-- Everything `emit` can do: where the port cannot fail the event takes its effect; where it can, the event takes its
effect or fails, as `failsAt 0` says. -/
theorem emit_cases (p : Port) (s : State) :
    (s.config.portCanFail = false ∧ emit p s = s.performPort p) ∨
    (s.config.portCanFail = true ∧ s.failsAt 0 = false ∧ emit p s = s.spendFailure.performPort p) ∨
    (s.config.portCanFail = true ∧ s.failsAt 0 = true ∧ emit p s = s.spendFailure.failPort) := by
  unfold emit
  cases hc : s.config.portCanFail <;> cases hf : s.failsAt 0 <;> simp

@[simp] theorem performPort_config (p : Port) (s : State) : (s.performPort p).config = s.config := by
  cases p <;> rfl

@[simp] theorem performPort_aborted (p : Port) (s : State) : (s.performPort p).aborted = s.aborted := by
  cases p <;> rfl

@[simp] theorem emit_config (p : Port) (s : State) : (emit p s).config = s.config := by
  rcases emit_cases p s with ⟨_, h⟩ | ⟨_, _, h⟩ | ⟨_, _, h⟩ <;> simp [h]

/-! ### Lines and programs -/

@[simp] theorem runMicro_config (m : Micro) (s : State) : (runMicro m s).config = s.config := by
  cases m <;> simp only [runMicro, emit_config]
  all_goals first
    | rfl
    | (split <;> rfl)

/-- A line changes the fault record only by a failing port event. -/
theorem runMicro_aborted {s : State} (h : s.config.portCanFail = false) (m : Micro) :
    (runMicro m s).aborted = s.aborted := by
  cases m <;> simp only [runMicro, emit_sound h, performPort_aborted]
  all_goals first
    | rfl
    | (split <;> rfl)

@[simp] theorem runProgram_nil (s : State) : runProgram [] s = s := rfl

theorem runProgram_cons_of_not_aborted {m : Micro} {ms : List Micro} {s : State}
    (h : (runMicro m s).aborted = false) : runProgram (m :: ms) s = runProgram ms (runMicro m s) := by
  simp [runProgram, h]

@[simp] theorem runProgram_config (ms : List Micro) (s : State) : (runProgram ms s).config = s.config := by
  induction ms generalizing s with
  | nil => rfl
  | cons m ms ih =>
    rw [runProgram]
    split
    · exact runMicro_config m s
    · rw [ih, runMicro_config]

/-- Where the port cannot fail, a program is its lines one after another. -/
theorem runProgram_cons {s : State} (hf : s.config.portCanFail = false) (ha : s.aborted = false) (m : Micro)
    (ms : List Micro) : runProgram (m :: ms) s = runProgram ms (runMicro m s) :=
  runProgram_cons_of_not_aborted (by rw [runMicro_aborted hf, ha])

theorem runProgram_aborted {s : State} (hf : s.config.portCanFail = false) (ha : s.aborted = false)
    (ms : List Micro) : (runProgram ms s).aborted = false := by
  induction ms generalizing s with
  | nil => exact ha
  | cons m ms ih =>
    rw [runProgram_cons hf ha]
    exact ih (by rw [runMicro_config, hf]) (by rw [runMicro_aborted hf, ha])

/-- Running two programs one after the other, failures included. -/
theorem runProgram_append_cases {s : State} (ha : s.aborted = false) (as bs : List Micro) :
    runProgram (as ++ bs) s = if (runProgram as s).aborted then runProgram as s else runProgram bs (runProgram as s) := by
  induction as generalizing s with
  | nil => simp [ha]
  | cons m ms ih =>
    simp only [List.cons_append, runProgram]
    split
    · rfl
    next h => exact ih (by simpa using h)

theorem runProgram_append {s : State} (hf : s.config.portCanFail = false) (ha : s.aborted = false)
    (as bs : List Micro) : runProgram (as ++ bs) s = runProgram bs (runProgram as s) := by
  rw [runProgram_append_cases ha, runProgram_aborted hf ha as]
  rfl

/-! ### Admission: when each operation is admitted (R95) -/

theorem admission_init {s : State} :
    admission .init s = none ↔ s.config.pins.distinct = true ∧ s.inited = false := by
  simp only [admission]
  cases s.config.pins.distinct <;> cases s.inited <;> simp

theorem admission_sendbyte {s : State} {v : Nat} :
    admission (.sendbyte v) s = none ↔ s.inited = true ∧ v < 256 := by
  simp only [admission, valueOk]
  cases s.inited <;> by_cases h : v < 256 <;> simp [h]

theorem admission_wrreg {s : State} {a v : Nat} :
    admission (.wrreg a v) s = none ↔ s.inited = true ∧ a < 16 ∧ v < 256 := by
  simp only [admission, addressOk, valueOk]
  cases s.inited <;> by_cases h : a < 16 <;> by_cases h' : v < 256 <;> simp [h, h']

theorem admission_rdregs {s : State} {a n : Nat} :
    admission (.rdregs a n) s = none ↔
      s.inited = true ∧ a < 16 ∧ 0 < n ∧ ∀ m, s.config.maxCount = some m → n ≤ m := by
  simp only [admission, addressOk, countOk]
  cases s.inited <;> by_cases h : a < 16 <;> by_cases h' : 0 < n <;> cases s.config.maxCount <;> simp [h, h']

theorem admission_plain {s : State} {op : Instr} (h : op ∈ [Instr.recvbyte, .reqconv, .rdcj, .rdtc]) :
    admission op s = none ↔ s.inited = true := by
  simp only [List.mem_cons, List.not_mem_nil, or_false] at h
  rcases h with rfl | rfl | rfl | rfl <;> simp only [admission] <;> cases s.inited <;> simp

/-! ### Serving a request -/

/-- Everything a request for an operation can answer. -/
theorem performOp_cases (op : Instr) (ms : List Micro) (ending : State → State) (s : State) :
    (s.aborted = true ∧ performOp op ms ending s = .fault .portAborted) ∨
    (s.aborted = false ∧ s.busy = true ∧ performOp op ms ending s = .refused .hostHasNoMove) ∨
    (s.aborted = false ∧ s.busy = false ∧ ∃ why, admission op s = some why ∧
      performOp op ms ending s = .next (s.refuse why)) ∨
    (s.aborted = false ∧ s.busy = false ∧ admission op s = none ∧
      performOp op ms ending s = .next ((runProgram ms (s.accept op)).conclude ending)) := by
  unfold performOp
  cases ha : s.aborted <;> simp
  cases hb : s.busy <;> simp
  cases hc : admission op s <;> simp

/-- A request that an admission check fails (R96). -/
theorem performOp_refused {op : Instr} {s : State} {why : RefuseReason} (ha : s.aborted = false) (hb : s.busy = false)
    (hc : admission op s = some why) (ms : List Micro) (ending : State → State) :
    performOp op ms ending s = .next (s.refuse why) := by
  simp [performOp, ha, hb, hc]

/-- An admitted request where the port cannot fail is run to its own ending. -/
theorem performOp_admitted {op : Instr} {s : State} (ha : s.aborted = false) (hb : s.busy = false)
    (hf : s.config.portCanFail = false) (hc : admission op s = none) (ms : List Micro) (ending : State → State) :
    performOp op ms ending s = .next (ending (runProgram ms (s.accept op))) := by
  have : (runProgram ms (s.accept op)).aborted = false := runProgram_aborted (by simpa using hf) (by simpa using ha) ms
  simp [performOp, ha, hb, hc, State.conclude, this]

end Sys2Proof.Machine
end

