-- ==== Sys2Proof/Laws/Programs.lean ====
section
/-! SUPPORT. What the programs of the byte transfers and of the two register transactions do where the port cannot fail:
the lemmas the proofs about the operations cite instead of unfolding a program. -/

namespace Sys2Proof.Machine

/-- `SEQ` after `n` more port events. -/
def seqAfter : Seq → Nat → Seq
  | .idle, _ => .idle
  | .running op k, n => .running op (k + n)

@[simp] theorem seqAfter_zero (q : Seq) : seqAfter q 0 = q := by cases q <;> rfl

theorem seqAfter_advance (q : Seq) : q.advance = seqAfter q 1 := by cases q <;> rfl

@[simp] theorem seqAfter_seqAfter (q : Seq) (m n : Nat) : seqAfter (seqAfter q m) n = seqAfter q (m + n) := by
  cases q <;> simp [seqAfter, Nat.add_assoc]

/-- SENDBYTE's program (R115): 24 events, CLK ends low, MOSI ends at bit 0. -/
theorem run_sendByte {s : State} (hf : s.config.portCanFail = false) (ha : s.aborted = false) (v : Byte) :
    runProgram (sendByteProgram v) s =
      { s with
        bitcnt := some 0
        lvl := { s.lvl with clk := some false, mosi := some (v.getLsbD 0) }
        trace := s.trace ++ sendEvents v
        seq := seqAfter s.seq 24 } := by
  simp [sendByteProgram, wireOrder, runProgram, runMicro, emit, hf, ha, State.performPort, Lvls.set,
    State.record, seqAfter_advance, sendEvents, wireBits, sendCell]

/-- RECVBYTE's program (R116): 24 events, eight samples, CLK ends low, MOSI untouched. -/
theorem run_recvByte {s : State} (hf : s.config.portCanFail = false) (ha : s.aborted = false) :
    runProgram recvByteProgram s =
      { s with
        sr := some (byteOfLevels (s.levels 8))
        bitcnt := some 0
        lvl := { s.lvl with clk := some false }
        trace := s.trace ++ recvEvents (s.levels 8)
        seq := seqAfter s.seq 24
        answers := s.answers.drop 8
        samples := s.samples + 8 } := by
  simp [recvByteProgram, wireOrder, runProgram, runMicro, emit, hf, ha, State.performPort, Lvls.set,
    State.record, seqAfter_advance, recvEvents, recvCell, State.spendAnswer, State.levels, State.levelAt,
    List.range_succ, byteOfLevels, Nat.add_assoc]
  simp [← List.drop_one]

/-- After eight samples the next bytes are the later ones. -/
theorem nextByte_drop {s t : State} (ha : t.answers = s.answers.drop 8) (hn : t.samples = s.samples + 8) (k : Nat) :
    t.nextByte k = s.nextByte (k + 1) := by
  have : ∀ i, t.levelAt (8 * k + i) = s.levelAt (8 * (k + 1) + i) := fun i => by
    rw [levelAt_drop ha hn]
    congr 1
    omega
  simp [State.nextByte, this]

theorem nextByte_congr {s t : State} (ha : t.answers = s.answers) (hn : t.samples = s.samples) (k : Nat) :
    t.nextByte k = s.nextByte k := by
  simp [State.nextByte, levelAt_congr ha hn]

theorem nextByte_zero (s : State) : s.nextByte 0 = byteOfLevels (s.levels 8) := by
  simp [State.nextByte, State.levels]

/-- The receive loop of RDREGS (R118): `n` bytes, in order. `SR` and `BITCNT` are left as the last byte left them. -/
theorem run_recvBytes (n : Nat) {s : State} (hf : s.config.portCanFail = false) (ha : s.aborted = false) :
    ∃ sr bitcnt, runProgram (recvBytesProgram n) s =
      { s with
        sr := sr
        bitcnt := bitcnt
        bytecnt := s.bytecnt.map (· - n)
        rb := s.rb ++ (List.range n).map s.nextByte
        lvl := if n = 0 then s.lvl else { s.lvl with clk := some false }
        trace := s.trace ++ recvEvents (s.levels (8 * n))
        seq := seqAfter s.seq (24 * n)
        answers := s.answers.drop (8 * n)
        samples := s.samples + 8 * n } := by
  induction n generalizing s with
  | zero =>
    refine ⟨s.sr, s.bitcnt, ?_⟩
    simp [recvBytesProgram, recvEvents, State.levels]
  | succ n ih =>
    obtain ⟨u, hu⟩ : ∃ u : State, u = { s with
        sr := some (byteOfLevels (s.levels 8))
        bitcnt := some 0
        bytecnt := s.bytecnt.map (· - 1)
        rb := s.rb ++ [byteOfLevels (s.levels 8)]
        lvl := { s.lvl with clk := some false }
        trace := s.trace ++ recvEvents (s.levels 8)
        seq := seqAfter s.seq 24
        answers := s.answers.drop 8
        samples := s.samples + 8 } := ⟨_, rfl⟩
    have hl : s.levels (8 * (n + 1)) = s.levels 8 ++ u.levels (8 * n) := by
      rw [show 8 * (n + 1) = 8 + 8 * n by omega]
      exact levels_drop (by rw [hu]) (by rw [hu]) _
    have hb : (List.range (n + 1)).map s.nextByte = byteOfLevels (s.levels 8) :: (List.range n).map u.nextByte := by
      have : u.nextByte = fun k => s.nextByte (k + 1) := funext (nextByte_drop (by rw [hu]) (by rw [hu]))
      rw [List.range_succ_eq_map, List.map_cons, List.map_map, nextByte_zero, this]
      rfl
    obtain ⟨sr, bc, h⟩ := ih (s := u) (by rw [hu]; exact hf) (by rw [hu]; exact ha)
    have hrun : runProgram (recvByteProgram ++ [.storeRb, .decBytecnt]) s = u := by
      rw [runProgram_append hf ha, run_recvByte hf ha, runProgram_cons (by exact hf) (by exact ha),
        runProgram_cons (by exact hf) (by exact ha), hu]
      simp [runMicro]
    refine ⟨sr, bc, ?_⟩
    rw [recvBytesProgram, runProgram_append hf ha, hrun, h, hl, hb, hu]
    simp [recvEvents, Option.map_map, Function.comp_def, Nat.mul_add, Nat.add_comm, Nat.sub_sub]
    omega

/-- The receive loop cut after some bytes. -/
theorem recvBytesProgram_add (k m : Nat) : recvBytesProgram (k + m) = recvBytesProgram k ++ recvBytesProgram m := by
  induction k with
  | zero => simp [recvBytesProgram]
  | succ k ih => rw [show k + 1 + m = k + m + 1 by omega, recvBytesProgram, recvBytesProgram, ih]; simp

theorem portsOf_append (as bs : List Micro) : portsOf (as ++ bs) = portsOf as ++ portsOf bs := by
  simp [portsOf]

/-- 24 events for each byte received (R116). -/
theorem length_portsOf_recvBytes (n : Nat) : (portsOf (recvBytesProgram n)).length = 24 * n := by
  induction n with
  | zero => rfl
  | succ n ih =>
    rw [recvBytesProgram, portsOf_append, List.length_append, ih,
      show (portsOf (recvByteProgram ++ [.storeRb, .decBytecnt])).length = 24 from rfl]
    omega

/-- One drive of a line (R112, R113). -/
theorem run_drive {s : State} (hf : s.config.portCanFail = false) (ha : s.aborted = false) (r : OutRole) (l : Level) :
    runProgram [.port (.drv r l)] s =
      { s with lvl := s.lvl.set r l, trace := s.trace ++ [.drv r l], seq := seqAfter s.seq 1 } := by
  rw [runProgram_cons hf ha, runProgram_nil]
  simp [runMicro, emit_sound hf, State.performPort, State.record, seqAfter_advance]

/-- WRREG's program (R117): 50 events, CS ends high, CLK low, MOSI at bit 0 of the value. -/
theorem run_wrreg {s : State} (hf : s.config.portCanFail = false) (ha : s.aborted = false) (a : Address) (v : Byte) :
    runProgram (wrregProgram a v) s =
      { s with
        bitcnt := some 0
        lvl := { cs := some true, clk := some false, mosi := some (v.getLsbD 0) }
        trace := s.trace ++ writeEvents a v
        seq := seqAfter s.seq 50 } := by
  unfold wrregProgram
  rw [runProgram_append hf ha, runProgram_append hf ha, runProgram_append hf ha, run_drive hf ha,
    run_sendByte (by exact hf) (by exact ha) (writeCommand a), run_sendByte (by exact hf) (by exact ha) v,
    run_drive (by exact hf) (by exact ha)]
  simp [Lvls.set, writeEvents]

/-- RDREGS's program (R118): `26 + 24 n` events, CS ends high, CLK low, MOSI at bit 0 of the address. -/
theorem run_rdregs {s : State} (hf : s.config.portCanFail = false) (ha : s.aborted = false) (a : Address) (n : Nat) :
    ∃ sr bitcnt, runProgram (rdregsProgram a n) s =
      { s with
        sr := sr
        bitcnt := bitcnt
        bytecnt := some 0
        rb := s.rb ++ (List.range n).map s.nextByte
        lvl := { cs := some true, clk := some false, mosi := some (a.getLsbD 0) }
        trace := s.trace ++ readEvents a (s.levels (8 * n))
        seq := seqAfter s.seq (26 + 24 * n)
        answers := s.answers.drop (8 * n)
        samples := s.samples + 8 * n } := by
  have hsb := run_sendByte (s := { s with
      lvl := s.lvl.set .cs false, trace := s.trace ++ [.drv .cs false], seq := seqAfter s.seq 1 })
      (by exact hf) (by exact ha) (readCommand a)
  obtain ⟨sr, bc, h⟩ := run_recvBytes n (s := runMicro (.setBytecnt n)
      (runProgram (sendByteProgram (readCommand a)) { s with
        lvl := s.lvl.set .cs false, trace := s.trace ++ [.drv .cs false], seq := seqAfter s.seq 1 }))
      (by rw [runMicro_config, runProgram_config]; exact hf)
      (by rw [hsb]; exact ha)
  refine ⟨sr, bc, ?_⟩
  unfold rdregsProgram
  rw [runProgram_append hf ha, runProgram_append hf ha, runProgram_append hf ha, runProgram_append hf ha,
    run_drive hf ha, runProgram_cons (m := .setBytecnt n) (by rw [hsb]; exact hf) (by rw [hsb]; exact ha),
    runProgram_nil, h, hsb, run_drive (by exact hf) (by exact ha)]
  have hn : ∀ {t : State}, t.answers = s.answers → t.samples = s.samples →
      t.nextByte = s.nextByte ∧ t.levels = s.levels := fun h1 h2 =>
    ⟨funext (nextByte_congr h1 h2), funext (levels_congr h1 h2)⟩
  obtain ⟨h1, h2⟩ := hn (t := runMicro (.setBytecnt n) { s with
      bitcnt := some 0
      lvl := { cs := some false, clk := some false, mosi := some ((readCommand a).getLsbD 0) }
      trace := s.trace ++ [.drv .cs false] ++ sendEvents (readCommand a)
      seq := seqAfter (seqAfter s.seq 1) 24 }) rfl rfl
  simp only [Lvls.set, runMicro] at h1 h2 ⊢
  rw [h1, h2]
  have hbit : (readCommand a)[0] = a[0] := by simp [readCommand]
  have hq : 25 + 24 * n + 1 = 26 + 24 * n := by omega
  by_cases hn : n = 0 <;> simp [hn, readEvents, hbit, hq]

end Sys2Proof.Machine
end

