-- ==== Sys2Proof/Laws/Device.lean ====
section
/-! SUPPORT. What the programs of the device operations do where the port cannot fail. -/

namespace Sys2Proof.Machine

/-- What a set-up event does to the directions. -/
def setupDir (d : Dirs) : Port → Dirs
  | .cfgOut r => d.setOut r
  | .cfgIn => { d with miso := some .input }
  | _ => d

/-- What a set-up event does to the levels. -/
def setupLvl (v : Lvls) : Port → Lvls
  | .drv r l => v.set r l
  | _ => v

/-- A list of set-up events, none of which samples (R141). -/
theorem run_setup (ps : List Port) (hp : .smp ∉ ps) {s : State} (hf : s.config.portCanFail = false)
    (ha : s.aborted = false) :
    runProgram (ps.map .port) s =
      { s with
        dir := ps.foldl setupDir s.dir
        lvl := ps.foldl setupLvl s.lvl
        trace := s.trace ++ ps.flatMap setupEvent
        seq := seqAfter s.seq ps.length } := by
  induction ps generalizing s with
  | nil => simp
  | cons p ps ih =>
    simp only [List.mem_cons, not_or] at hp
    have hstep : runMicro (.port p) s =
        { s with dir := setupDir s.dir p, lvl := setupLvl s.lvl p, trace := s.trace ++ setupEvent p,
                 seq := seqAfter s.seq 1 } := by
      simp only [runMicro, emit_sound hf]
      cases p <;> simp [State.performPort, State.record, setupDir, setupLvl, setupEvent, seqAfter_advance] at hp ⊢
    rw [List.map_cons, runProgram_cons hf ha, hstep, ih hp.2 (by exact hf) (by exact ha)]
    simp [Nat.add_comm]

/-- A configured role stays configured. -/
theorem setupDir_out (ps : List Port) (d : Dirs) (r : OutRole) (f : Dirs → Option Dir)
    (hf : f = match r with | .cs => Dirs.cs | .clk => Dirs.clk | .mosi => Dirs.mosi)
    (h : f d = some .out ∨ .cfgOut r ∈ ps) : f (ps.foldl setupDir d) = some .out := by
  induction ps generalizing d with
  | nil => simpa using h
  | cons p ps ih =>
    apply ih
    rcases h with h | h
    · left
      subst hf
      cases p with
      | cfgOut q => cases q <;> cases r <;> simp_all [setupDir, Dirs.setOut]
      | cfgIn => cases r <;> simp_all [setupDir]
      | _ => exact h
    · rcases List.mem_cons.mp h with h | h
      · left
        subst hf h
        cases r <;> rfl
      · exact .inr h

theorem setupDir_miso (ps : List Port) (d : Dirs) (h : d.miso = some .input ∨ .cfgIn ∈ ps) :
    (ps.foldl setupDir d).miso = some .input := by
  induction ps generalizing d with
  | nil => simpa using h
  | cons p ps ih =>
    apply ih
    rcases h with h | h
    · left
      cases p with
      | cfgOut q => cases q <;> exact h
      | cfgIn => rfl
      | _ => exact h
    · rcases List.mem_cons.mp h with h | h
      · left
        rw [← h]
        rfl
      · exact .inr h

/-- A legal set-up order configures every role. -/
theorem setup_dir {c : Config} (h : c.wf = true) (d : Dirs) :
    c.initOrder.foldl setupDir d =
      { cs := some .out, clk := some .out, mosi := some .out, miso := some .input } := by
  have hp : ∀ p, p ∈ c.initOrder ↔ p ∈ Config.defaultInitOrder := by
    simp only [Config.wf, Bool.and_eq_true] at h
    exact fun p => (List.isPerm_iff.mp h.1.1.1).mem_iff
  have h1 := setupDir_out c.initOrder d .cs Dirs.cs rfl (.inr ((hp _).mpr (by decide)))
  have h2 := setupDir_out c.initOrder d .clk Dirs.clk rfl (.inr ((hp _).mpr (by decide)))
  have h3 := setupDir_out c.initOrder d .mosi Dirs.mosi rfl (.inr ((hp _).mpr (by decide)))
  have h4 := setupDir_miso c.initOrder d (.inr ((hp _).mpr (by decide)))
  generalize c.initOrder.foldl setupDir d = e at h1 h2 h3 h4
  cases e
  simp_all

theorem setup_no_sample {c : Config} (h : c.wf = true) : Port.smp ∉ c.initOrder := by
  simp only [Config.wf, Bool.and_eq_true] at h
  rw [(List.isPerm_iff.mp h.1.1.1).mem_iff]
  decide

theorem setup_length {c : Config} (h : c.wf = true) : c.initOrder.length = 7 := by
  simp only [Config.wf, Bool.and_eq_true] at h
  exact (List.isPerm_iff.mp h.1.1.1).length_eq

/-- INIT's program (R142): 57 events, the directions set, the levels as the mode write leaves them. -/
theorem run_init {s : State} (hf : s.config.portCanFail = false) (ha : s.aborted = false) (hw : s.config.wf = true) :
    runProgram (initProgram s.config) s =
      { s with
        inited := true
        dir := { cs := some .out, clk := some .out, mosi := some .out, miso := some .input }
        lvl := { cs := some true, clk := some false, mosi := some true }
        bitcnt := some 0
        trace := s.trace ++ initEvents s.config
        seq := seqAfter s.seq 57 } := by
  unfold initProgram
  rw [runProgram_append hf ha, runProgram_append hf ha, run_setup _ (setup_no_sample hw) hf ha,
    run_wrreg (by exact hf) (by exact ha), runProgram_cons (by exact hf) (by exact ha), setup_dir hw, setup_length hw]
  simp [runMicro, initEvents, Config.cr1Value, State.setInited]

/-- REQCONV's program (R144): 51 events, the delay elapsed. -/
theorem run_reqconv {s : State} (hf : s.config.portCanFail = false) (ha : s.aborted = false) :
    runProgram (reqconvProgram s.config) s =
      { s with
        bitcnt := some 0
        dly := some 0
        lvl := { cs := some true, clk := some false, mosi := some false }
        trace := s.trace ++ reqconvEvents s.config
        seq := seqAfter s.seq 51 } := by
  unfold reqconvProgram
  rw [runProgram_append hf ha, run_wrreg hf ha, runProgram_cons (by exact hf) (by exact ha),
    runProgram_cons (by exact hf) (by rw [runMicro_aborted (by exact hf)]; exact ha),
    runProgram_cons (by rw [runMicro_config]; exact hf)
      (by rw [runMicro_aborted (by exact hf), runMicro_aborted (by exact hf)]; exact ha)]
  simp [runMicro, emit, hf, State.performPort, State.record, reqconvEvents, Config.cr0Value,
    seqAfter_advance]

/-- A conversion request and a block read, RDCJ's and RDTC's common part (R145, R146). -/
theorem run_read_after_request {s : State} (hf : s.config.portCanFail = false) (ha : s.aborted = false) (a : Address)
    (n : Nat) :
    ∃ sr bitcnt, runProgram (reqconvProgram s.config ++ rdregsProgram a n) s =
      { s with
        sr := sr
        bitcnt := bitcnt
        bytecnt := some 0
        dly := some 0
        rb := s.rb ++ (List.range n).map s.nextByte
        lvl := { cs := some true, clk := some false, mosi := some (a.getLsbD 0) }
        trace := s.trace ++ (reqconvEvents s.config ++ readEvents a (s.levels (8 * n)))
        seq := seqAfter s.seq (77 + 24 * n)
        answers := s.answers.drop (8 * n)
        samples := s.samples + 8 * n } := by
  obtain ⟨u, hu⟩ : ∃ u : State, u = { s with
      bitcnt := some 0
      dly := some 0
      lvl := { cs := some true, clk := some false, mosi := some false }
      trace := s.trace ++ reqconvEvents s.config
      seq := seqAfter s.seq 51 } := ⟨_, rfl⟩
  have h1 : u.nextByte = s.nextByte := funext (nextByte_congr (by rw [hu]) (by rw [hu]))
  have h2 : u.levels = s.levels := funext (levels_congr (by rw [hu]) (by rw [hu]))
  obtain ⟨sr, bc, h⟩ := run_rdregs (s := u) (by rw [hu]; exact hf) (by rw [hu]; exact ha) a n
  refine ⟨sr, bc, ?_⟩
  rw [runProgram_append hf ha, run_reqconv hf ha, ← hu, h, h1, h2, hu]
  have : 51 + (26 + 24 * n) = 77 + 24 * n := by omega
  simp [this]

/-- RDCJ's program (R145): 149 events, the three bytes decoded. -/
theorem run_rdcj {s : State} (hf : s.config.portCanFail = false) (ha : s.aborted = false) (hrb : s.rb = []) :
    ∃ sr bitcnt, runProgram (rdcjProgram s.config) s =
      { s with
        sr := sr
        bitcnt := bitcnt
        bytecnt := some 0
        dly := some 0
        rb := [s.nextByte 0, s.nextByte 1, s.nextByte 2]
        raw := some (cjRaw (s.nextByte 1) (s.nextByte 2))
        q := some ((decCj (s.nextByte 0) (s.nextByte 1) (s.nextByte 2)).setWidth 19)
        lvl := { cs := some true, clk := some false, mosi := some true }
        trace := s.trace ++ (reqconvEvents s.config ++ readEvents Config.cjAddr (s.levels 24))
        seq := seqAfter s.seq 149
        answers := s.answers.drop 24
        samples := s.samples + 24 } := by
  obtain ⟨sr, bc, h⟩ := run_read_after_request hf ha Config.cjAddr Config.cjCount
  refine ⟨sr, bc, ?_⟩
  unfold rdcjProgram
  rw [runProgram_append hf ha, h, runProgram_cons (by exact hf) (by exact ha)]
  simp [runMicro, hrb, Config.cjCount, List.range_succ, State.writeCj, Config.cjAddr]

/-- RDTC's program (R146): 173 events, the three value bytes decoded, the fault byte kept. -/
theorem run_rdtc {s : State} (hf : s.config.portCanFail = false) (ha : s.aborted = false) (hrb : s.rb = []) :
    ∃ sr bitcnt, runProgram (rdtcProgram s.config) s =
      { s with
        sr := sr
        bitcnt := bitcnt
        bytecnt := some 0
        dly := some 0
        rb := [s.nextByte 0, s.nextByte 1, s.nextByte 2, s.nextByte 3]
        raw := some (tcRaw (s.nextByte 0) (s.nextByte 1) (s.nextByte 2))
        q := some (decTc (s.nextByte 0) (s.nextByte 1) (s.nextByte 2))
        flt := some (s.nextByte 3)
        lvl := { cs := some true, clk := some false, mosi := some false }
        trace := s.trace ++ (reqconvEvents s.config ++ readEvents Config.tcAddr (s.levels 32))
        seq := seqAfter s.seq 173
        answers := s.answers.drop 32
        samples := s.samples + 32 } := by
  obtain ⟨sr, bc, h⟩ := run_read_after_request hf ha Config.tcAddr Config.tcCount
  refine ⟨sr, bc, ?_⟩
  unfold rdtcProgram
  rw [runProgram_append hf ha, h, runProgram_cons (by exact hf) (by exact ha),
    runProgram_cons (by rw [runMicro_config]; exact hf) (by rw [runMicro_aborted (by exact hf)]; exact ha)]
  simp [runMicro, hrb, Config.tcCount, List.range_succ, State.writeTc, Config.tcAddr]

end Sys2Proof.Machine
end

