-- ==== Sys2Proof/Laws/Operands.lean ====
section
/-! SUPPORT. The decoded quantities as numbers (42_decoder.md R160 to R175), and the fault selector by cases. -/

namespace Sys2Proof.Machine

/-- `{high, mid, low}` as a number (R160). -/
theorem toNat_tcRaw (h m l : Byte) : (tcRaw h m l).toNat = h.toNat * 65536 + m.toNat * 256 + l.toNat := by
  rw [tcRaw, toNat_append_eq, toNat_append_eq]
  omega

/-- DECTC as a number (R160, R164). -/
theorem toNat_decTc (h m l : Byte) : (decTc h m l).toNat = (tcRaw h m l).toNat / 32 := by
  have := (tcRaw h m l).isLt
  rw [decTc, tcQ, toNat_field]
  omega

/-- `{msb, lsb}` as a number (R166). -/
theorem toNat_cjRaw (m l : Byte) : (cjRaw m l).toNat = m.toNat * 256 + l.toNat := by
  rw [cjRaw, BitVec.toNat_setWidth, toNat_append_eq]
  omega

/-- DECCJ as a number: the sum never wraps (R166, R168). -/
theorem toNat_decCj (o m l : Byte) : (decCj o m l).toNat = o.toNat + (cjRaw m l).toNat / 4 := by
  have := toNat_cjRaw m l
  rw [decCj, cjQ, BitVec.toNat_add, BitVec.toNat_setWidth, BitVec.toNat_setWidth, toNat_field]
  omega

/-- One receive step as a number (R116). -/
theorem toNat_shiftIn (sr : Byte) (b : Level) : (shiftIn sr b).toNat = sr.toNat % 128 * 2 + b.toNat := by
  rw [shiftIn, toNat_append_eq, toNat_field]
  simp

/-- The first level received is bit 7 of the byte (R116). -/
theorem toNat_byteOfLevels (b7 b6 b5 b4 b3 b2 b1 b0 : Level) :
    (byteOfLevels [b7, b6, b5, b4, b3, b2, b1, b0]).toNat =
      b7.toNat * 128 + b6.toNat * 64 + b5.toNat * 32 + b4.toNat * 16 + b3.toNat * 8 + b2.toNat * 4 + b1.toNat * 2 +
        b0.toNat := by
  have := b7.toNat_le; have := b6.toNat_le; have := b5.toNat_le; have := b4.toNat_le
  have := b3.toNat_le; have := b2.toNat_le; have := b1.toNat_le; have := b0.toNat_le
  simp only [byteOfLevels, List.foldl_cons, List.foldl_nil, toNat_shiftIn]
  omega

/-- Receiving the bits of a byte in wire order gives the byte (R51, R81). -/
theorem byteOfLevels_wireBits (v : Byte) : byteOfLevels (wireBits v) = v := by
  revert v
  decide +kernel

end Sys2Proof.Machine
end

