-- ==== Sys2Proof/Laws/Remote.lean ====
section
/-! SUPPORT. The register space in its canonical form: what a write does to it, and that it stays canonical. -/

namespace Sys2Proof.Machine

theorem remoteRising_cons (a : Nat) (w : Byte) (m : RemoteMemory) :
    remoteRising ((a, w) :: m) = true ↔ (∀ c, m.head? = some c → a < c.1) ∧ remoteRising m = true := by
  cases m with
  | nil => simp [remoteRising]
  | cons c m => obtain ⟨b, v⟩ := c; simp [remoteRising]

/-- What stands first after an insertion stands above every bound of both. -/
theorem remoteInsert_head {k lo : Nat} {v : Byte} {m : RemoteMemory} (hm : ∀ c, m.head? = some c → lo < c.1)
    (hk : lo < k) : ∀ c, (remoteInsert k v m).head? = some c → lo < c.1 := by
  intro c hc
  cases m with
  | nil =>
    simp only [remoteInsert, List.head?_cons, Option.some.injEq] at hc
    exact hc ▸ hk
  | cons d m =>
    obtain ⟨b, w⟩ := d
    simp only [remoteInsert] at hc
    split at hc
    · simp only [List.head?_cons, Option.some.injEq] at hc
      exact hc ▸ hk
    · split at hc <;> simp only [List.head?_cons, Option.some.injEq] at hc <;> subst hc
      · exact hk
      · exact hm _ rfl

theorem remoteRising_insert (k : Nat) (v : Byte) {m : RemoteMemory} (h : remoteRising m = true) :
    remoteRising (remoteInsert k v m) = true := by
  induction m with
  | nil => rfl
  | cons c m ih =>
    obtain ⟨b, w⟩ := c
    simp only [remoteInsert]
    split
    next hb =>
      rw [remoteRising_cons]
      exact ⟨by simpa using hb, h⟩
    next hb =>
      rw [remoteRising_cons] at h
      split
      next he => rw [remoteRising_cons, he]; exact h
      next he => rw [remoteRising_cons]; exact ⟨remoteInsert_head h.1 (by omega), ih h.2⟩

theorem mem_remoteInsert {k : Nat} {v : Byte} {m : RemoteMemory} {c : Host.Cell} (h : c ∈ remoteInsert k v m) :
    c = (k, v) ∨ c ∈ m := by
  induction m with
  | nil => simpa [remoteInsert] using h
  | cons d m ih =>
    obtain ⟨b, w⟩ := d
    simp only [remoteInsert] at h
    split at h
    · simpa using h
    · split at h
      · simp only [List.mem_cons] at h ⊢
        tauto
      · simp only [List.mem_cons] at h ⊢
        tauto

/-- A write keeps the canonical form. -/
theorem remoteWrite_wf {m : RemoteMemory} (h : m.wf = true) (a : Address) (v : Byte) :
    (remoteWrite m a v).wf = true := by
  simp only [RemoteMemory.wf, Bool.and_eq_true, List.all_eq_true, decide_eq_true_eq] at h ⊢
  refine ⟨remoteRising_insert _ _ h.1, fun c hc => ?_⟩
  rcases mem_remoteInsert hc with rfl | hc
  · exact a.isLt
  · exact h.2 c hc

theorem find_remoteInsert_same (k : Nat) (v : Byte) (m : RemoteMemory) :
    (remoteInsert k v m).find? (·.1 == k) = some (k, v) := by
  induction m with
  | nil => simp [remoteInsert]
  | cons c m ih =>
    obtain ⟨b, w⟩ := c
    simp only [remoteInsert]
    split
    · simp
    · split
      · simp
      · rw [List.find?_cons_of_neg (by simp; omega), ih]

theorem find_remoteInsert_other {k j : Nat} (v : Byte) (hj : j ≠ k) (m : RemoteMemory) :
    (remoteInsert k v m).find? (·.1 == j) = m.find? (·.1 == j) := by
  induction m with
  | nil => simp [remoteInsert]; omega
  | cons c m ih =>
    obtain ⟨b, w⟩ := c
    simp only [remoteInsert]
    split
    · rw [List.find?_cons_of_neg (by simp; omega)]
    · split
      next he => rw [List.find?_cons_of_neg (by simp; omega), List.find?_cons_of_neg (by simp; omega)]
      next => simp only [List.find?_cons, ih]

/-- A location reads the byte last written to it. -/
@[simp] theorem remoteRead_write_same (m : RemoteMemory) (a : Address) (v : Byte) :
    remoteRead (remoteWrite m a v) a = some v := by
  simp [remoteRead, remoteWrite, find_remoteInsert_same]

/-- A write leaves every other location. -/
theorem remoteRead_write_other (m : RemoteMemory) {a b : Address} (v : Byte) (h : b ≠ a) :
    remoteRead (remoteWrite m a v) b = remoteRead m b := by
  simp [remoteRead, remoteWrite, find_remoteInsert_other v (fun he => h (BitVec.eq_of_toNat_eq he))]

/-- Nothing is known of a location before it is written (R40). -/
@[simp] theorem remoteRead_nil (a : Address) : remoteRead [] a = none := rfl

end Sys2Proof.Machine
end

