-- ==== Sys2Proof/Laws/Wire.lean ====
section
/-! SUPPORT. What the observer of the wires makes of the event lists of the operations. -/

namespace Sys2Proof.Machine

@[simp] theorem observeAll_nil (w : Wires) : observeAll w [] = w := rfl

@[simp] theorem observeAll_append (w : Wires) (es fs : List Event) :
    observeAll w (es ++ fs) = observeAll (observeAll w es) fs := by
  simp [observeAll]

@[simp] theorem drivesOf_append (r : OutRole) (es fs : List Event) :
    drivesOf r (es ++ fs) = drivesOf r es ++ drivesOf r fs := by
  induction es with
  | nil => rfl
  | cons e es ih =>
    cases e <;> simp only [List.cons_append, drivesOf, ih]
    split <;> simp

@[simp] theorem samplesOf_append (es fs : List Event) : samplesOf (es ++ fs) = samplesOf es ++ samplesOf fs := by
  induction es with
  | nil => rfl
  | cons e es ih => cases e <;> simp [samplesOf, ih]

@[simp] theorem waitedMs_append (es fs : List Event) : waitedMs (es ++ fs) = waitedMs es + waitedMs fs := by
  induction es with
  | nil => simp [waitedMs]
  | cons e es ih => cases e <;> simp [waitedMs, ih, Nat.add_assoc]

theorem drivesOf_send_cs (v : Byte) : drivesOf .cs (sendEvents v) = [] := rfl

theorem drivesOf_recv_cs (ls : List Level) : drivesOf .cs (recvEvents ls) = [] := by
  induction ls with
  | nil => rfl
  | cons b ls ih => simpa [recvEvents, recvCell, drivesOf] using ih

/-- Where chip-select is not driven nothing is written, and the bits of a transaction only grow. -/
theorem observeAll_no_cs (es : List Event) (h : drivesOf .cs es = []) (w : Wires) :
    (observeAll w es).sent = w.sent ∧ (observeAll w es).cs = w.cs ∧
      ∃ bits, (observeAll w es).frame = w.frame ++ bits := by
  induction es generalizing w with
  | nil => exact ⟨rfl, rfl, [], by simp⟩
  | cons e es ih =>
    have hes : drivesOf .cs es = [] := by
      cases e <;> simp only [drivesOf] at h <;> first
        | exact h
        | (split at h <;> simp_all)
    have he : (observe w e).sent = w.sent ∧ (observe w e).cs = w.cs ∧
        ∃ bits, (observe w e).frame = w.frame ++ bits := by
      cases e with
      | drv r l =>
        cases r with
        | cs => simp [drivesOf] at h
        | clk =>
          refine ⟨rfl, rfl, ?_⟩
          simp only [observe]
          split
          · exact ⟨_, rfl⟩
          · exact ⟨[], by simp⟩
        | mosi => exact ⟨rfl, rfl, [], by simp [observe]⟩
      | _ => exact ⟨rfl, rfl, [], by simp [observe]⟩
    obtain ⟨hs, hc, x, hf⟩ := ih hes (observe w e)
    obtain ⟨hs', hc', x', hf'⟩ := he
    refine ⟨hs.trans hs', hc.trans hc', x' ++ x, ?_⟩
    change (observeAll (observe w e) es).frame = _
    rw [hf, hf', List.append_assoc]

/-- The write frame of WRREG writes its register (R60, R83). -/
theorem observeAll_write (w : Wires) (a : Address) (v : Byte) :
    (observeAll w (writeEvents a v)).sent = remoteWrite w.sent a v := by
  have h : observeAll w (writeEvents a v) = { w with
      cs := some true, clk := some false, mosi := some (v.getLsbD 0), frame := []
      sent := commitFrame (wireBits (writeCommand a) ++ wireBits v) w.sent } := by
    simp [writeEvents, sendEvents, wireBits, wireOrder, sendCell, observeAll, observe]
  have hsel : ∀ a : Address, (byteOfLevels (wireBits (writeCommand a))).setWidth 4 = a := by
    intro a
    rw [byteOfLevels_wireBits]
    revert a
    decide
  have htop : ∀ a : Address, (wireBits (writeCommand a)).head? = some true := by decide
  have htake : (wireBits (writeCommand a) ++ wireBits v).take 8 = wireBits (writeCommand a) := rfl
  have hdrop : (wireBits (writeCommand a) ++ wireBits v).drop 8 = wireBits v := rfl
  rw [h]
  simp only [commitFrame]
  rw [if_pos ⟨rfl, htop a⟩, htake, hdrop, hsel, byteOfLevels_wireBits]

/-- The read frame of RDREGS writes nothing (R60, R84). -/
theorem observeAll_read (w : Wires) (a : Address) (ls : List Level) :
    (observeAll w (readEvents a ls)).sent = w.sent := by
  have hcmd : observeAll w ([.drv .cs false] ++ sendEvents (readCommand a)) = { w with
      cs := some false, clk := some false, mosi := some ((readCommand a).getLsbD 0)
      frame := wireBits (readCommand a) } := by
    simp [sendEvents, wireBits, wireOrder, sendCell, observeAll, observe]
  have htop : ∀ (a : Address) (z : List Level), (wireBits (readCommand a) ++ z).head? = some false := by
    intro a z
    have : ∀ a : Address, (wireBits (readCommand a)).head? = some false := by decide
    simpa [wireBits, wireOrder] using this a
  obtain ⟨hs, hc, bits, hf⟩ := observeAll_no_cs (recvEvents ls) (drivesOf_recv_cs ls)
    (observeAll w ([.drv .cs false] ++ sendEvents (readCommand a)))
  rw [readEvents, observeAll_append, observeAll_append]
  rw [hcmd] at hs hc hf ⊢
  simp only [observeAll, List.foldl_cons, List.foldl_nil, observe] at hs hc hf ⊢
  rw [if_pos hc, hf, hs, commitFrame, if_neg (by rw [htop]; simp)]

end Sys2Proof.Machine
end

