-- ==== Sys2Proof/Laws/Failure.lean ====
section
/-! SUPPORT. A port that can fail: a run without a failure is the run of a port that cannot fail, and a run with one
ends at the first event that fails (R195). And what the levels sampled cannot change (R24). -/

namespace Sys2Proof.Machine

/-- `s` with a port that cannot fail and any record of what the port answered. -/
def State.soundPort (s : State) (failures : List Bool) (attempts : Nat) : State :=
  { s with config := { s.config with portCanFail := false }, failures := failures, attempts := attempts }

theorem portsOf_cons (m : Micro) (ms : List Micro) : portsOf (m :: ms) = (microPort m).toList ++ portsOf ms := by
  simp only [portsOf, List.filterMap_cons]
  cases microPort m <;> simp

/-! ### A run without a failure -/

theorem performPort_soundPort (p : Port) (s : State) (fs : List Bool) (n : Nat) :
    (s.soundPort fs n).performPort p = (s.performPort p).soundPort fs n := by
  cases p <;> rfl

theorem performPort_spendFailure (p : Port) (s : State) (fs : List Bool) (n : Nat) :
    (s.spendFailure.performPort p).soundPort fs n = (s.performPort p).soundPort fs n := by
  cases p <;> rfl

/-- Emitting without a failure is emitting on a port that cannot fail. -/
theorem emit_unfailed {p : Port} {s : State} (h : (emit p s).aborted = false) (fs : List Bool) (n : Nat) :
    emit p (s.soundPort fs n) = (emit p s).soundPort fs n := by
  rw [emit_sound (by rfl), performPort_soundPort]
  rcases emit_cases p s with ⟨_, he⟩ | ⟨_, _, he⟩ | ⟨_, _, he⟩
  · rw [he]
  · rw [he, performPort_spendFailure]
  · rw [he] at h
    simp [State.failPort] at h

theorem runMicro_unfailed {m : Micro} {s : State} (h : (runMicro m s).aborted = false) (fs : List Bool) (n : Nat) :
    runMicro m (s.soundPort fs n) = (runMicro m s).soundPort fs n := by
  cases m with
  | port p => exact emit_unfailed h fs n
  | sample =>
    simp only [runMicro] at h ⊢
    rw [emit_unfailed (by simpa using h) fs n]
    rfl
  | decodeTc => simp only [runMicro, State.soundPort]; split <;> rfl
  | decodeCj => simp only [runMicro, State.soundPort]; split <;> rfl
  | _ => rfl

/-- A fault recorded stays recorded. -/
theorem runMicro_stays_aborted {s : State} (h : s.aborted = true) (m : Micro) : (runMicro m s).aborted = true := by
  have he : ∀ p, (emit p s).aborted = true := fun p => by
    rcases emit_cases p s with ⟨_, e⟩ | ⟨_, _, e⟩ | ⟨_, _, e⟩ <;> simp [e, h, State.failPort]
  cases m with
  | port p => exact he p
  | sample => exact he .smp
  | decodeTc => simp only [runMicro]; split <;> exact h
  | decodeCj => simp only [runMicro]; split <;> exact h
  | _ => exact h

/-- A program that ran without a failure did what it does on a port that cannot fail. -/
theorem runProgram_unfailed {ms : List Micro} {s : State} (h : (runProgram ms s).aborted = false) (fs : List Bool)
    (n : Nat) : runProgram ms (s.soundPort fs n) = (runProgram ms s).soundPort fs n := by
  induction ms generalizing s with
  | nil => rfl
  | cons m ms ih =>
    simp only [runProgram] at h ⊢
    split at h
    next hm => simp [hm] at h
    next hm =>
      have hm' : (runMicro m s).aborted = false := by simpa using hm
      rw [runMicro_unfailed hm' fs n, if_neg (by simpa [State.soundPort] using hm), if_neg hm, ih h]

/-! ### A run with a failure -/

/-- What a line leaves alone, and the one event it may append: the request it makes. -/
theorem runMicro_trace {m : Micro} {s : State} (h : (runMicro m s).aborted = false) :
    (runMicro m s).trace.map eventPort = s.trace.map eventPort ++ (microPort m).toList := by
  have he : ∀ p, (emit p s).aborted = false → (emit p s).trace.map eventPort = s.trace.map eventPort ++ [p] := by
    intro p hp
    rcases emit_cases p s with ⟨_, e⟩ | ⟨_, _, e⟩ | ⟨_, _, e⟩
    · rw [e]; cases p <;> simp [State.performPort, eventPort]
    · rw [e]; cases p <;> simp [State.performPort, eventPort]
    · simp [e, State.failPort] at hp
  cases m with
  | port p => exact he p h
  | sample => exact he .smp h
  | decodeTc => simp only [runMicro]; split <;> simp [microPort]
  | decodeCj => simp only [runMicro]; split <;> simp [microPort]
  | _ => simp [runMicro, microPort]

/-- The line that fails is a request, and takes no effect but the record of the failure. -/
theorem runMicro_failed {m : Micro} {s : State} (hs : s.aborted = false) (h : (runMicro m s).aborted = true) :
    s.config.portCanFail = true ∧ (microPort m).isSome = true ∧ s.failsAt 0 = true ∧
      ∃ sr, runMicro m s = { s.spendFailure.failPort with sr := sr } := by
  have he : ∀ p, (emit p s).aborted = true →
      s.config.portCanFail = true ∧ s.failsAt 0 = true ∧ emit p s = s.spendFailure.failPort := by
    intro p hp
    rcases emit_cases p s with ⟨_, e⟩ | ⟨_, _, e⟩ | ⟨hc, hf, e⟩
    · simp [e, hs] at hp
    · simp [e, hs] at hp
    · exact ⟨hc, hf, e⟩
  cases m with
  | port p => exact ⟨(he p h).1, rfl, (he p h).2.1, s.sr, (he p h).2.2.trans rfl⟩
  | sample =>
    obtain ⟨hc, hf, e⟩ := he .smp h
    refine ⟨hc, rfl, hf, s.sr.map (shiftIn · (s.levelAt 0)), ?_⟩
    simp only [runMicro, e]
  | decodeTc => simp only [runMicro] at h; split at h <;> simp [hs] at h
  | decodeCj => simp only [runMicro] at h; split at h <;> simp [hs] at h
  | _ => simp [runMicro, hs] at h

/-- What no line touches. -/
theorem runMicro_frame (m : Micro) (s : State) :
    (runMicro m s).requests = s.requests ∧ (runMicro m s).responses = s.responses ∧ (runMicro m s).busy = s.busy ∧
      (runMicro m s).probe = s.probe ∧ (runMicro m s).results = s.results := by
  have he : ∀ p, (emit p s).requests = s.requests ∧ (emit p s).responses = s.responses ∧ (emit p s).busy = s.busy ∧
      (emit p s).probe = s.probe ∧ (emit p s).results = s.results := by
    intro p
    rcases emit_cases p s with ⟨_, e⟩ | ⟨_, _, e⟩ | ⟨_, _, e⟩ <;> rw [e] <;> cases p <;> exact ⟨rfl, rfl, rfl, rfl, rfl⟩
  cases m with
  | port p => exact he p
  | sample => exact he .smp
  | decodeTc => simp only [runMicro]; split <;> exact ⟨rfl, rfl, rfl, rfl, rfl⟩
  | decodeCj => simp only [runMicro]; split <;> exact ⟨rfl, rfl, rfl, rfl, rfl⟩
  | _ => exact ⟨rfl, rfl, rfl, rfl, rfl⟩

theorem runProgram_frame (ms : List Micro) (s : State) :
    (runProgram ms s).requests = s.requests ∧ (runProgram ms s).responses = s.responses ∧
      (runProgram ms s).busy = s.busy ∧ (runProgram ms s).probe = s.probe ∧ (runProgram ms s).results = s.results := by
  induction ms generalizing s with
  | nil => exact ⟨rfl, rfl, rfl, rfl, rfl⟩
  | cons m ms ih =>
    obtain ⟨h1, h2, h3, h4, h5⟩ := runMicro_frame m s
    rw [runProgram]
    split
    · exact ⟨h1, h2, h3, h4, h5⟩
    · obtain ⟨i1, i2, i3, i4, i5⟩ := ih (runMicro m s)
      exact ⟨i1.trans h1, i2.trans h2, i3.trans h3, i4.trans h4, i5.trans h5⟩

/-- A line that did not fail uses up one answer of the failing port for the event it emitted, and that answer was no failure. -/
theorem runMicro_failsAt {m : Micro} {s : State} (hc : s.config.portCanFail = true)
    (h : (runMicro m s).aborted = false) :
    (∀ j, (runMicro m s).failsAt j = s.failsAt ((microPort m).toList.length + j)) ∧
    ((microPort m).isSome = true → s.failsAt 0 = false) := by
  have he : ∀ p, (emit p s).aborted = false →
      (emit p s).failures = s.failures.tail ∧ (emit p s).attempts = s.attempts + 1 ∧ s.failsAt 0 = false := by
    intro p hp
    rcases emit_cases p s with ⟨hn, _⟩ | ⟨_, hf, e⟩ | ⟨_, _, e⟩
    · simp [hc] at hn
    · rw [e]; cases p <;> exact ⟨rfl, rfl, hf⟩
    · simp [e, State.failPort] at hp
  have hn : ∀ {t : State}, t.failures = s.failures → t.attempts = s.attempts → microPort m = none →
      (∀ j, t.failsAt j = s.failsAt ((microPort m).toList.length + j)) ∧
      ((microPort m).isSome = true → s.failsAt 0 = false) := by
    intro t h1 h2 h3
    rw [h3]
    exact ⟨fun j => by simpa using failsAt_congr h1 h2 j, by simp⟩
  cases m with
  | port p =>
    obtain ⟨h1, h2, h3⟩ := he p h
    exact ⟨fun j => by simpa [microPort, Nat.add_comm] using failsAt_succ (t := runMicro (.port p) s) h1 h2 j, fun _ => h3⟩
  | sample =>
    obtain ⟨h1, h2, h3⟩ := he .smp h
    exact ⟨fun j => by simpa [microPort, Nat.add_comm] using failsAt_succ (t := runMicro .sample s) h1 h2 j, fun _ => h3⟩
  | decodeTc => simp only [runMicro]; split <;> exact hn rfl rfl rfl
  | decodeCj => simp only [runMicro]; split <;> exact hn rfl rfl rfl
  | _ => exact hn rfl rfl rfl

/-- A program that failed: the port can fail, no pin has a value, and the events are those before the first that fails. -/
theorem runProgram_failed {ms : List Micro} {s : State} (hs : s.aborted = false) (h : (runProgram ms s).aborted = true) :
    s.config.portCanFail = true ∧
    (runProgram ms s).dir = { cs := none, clk := none, mosi := none, miso := none } ∧
    (runProgram ms s).lvl = { cs := none, clk := none, mosi := none } ∧
    ∃ k < (portsOf ms).length, (∀ j < k, s.failsAt j = false) ∧ s.failsAt k = true ∧
      (runProgram ms s).trace.map eventPort = s.trace.map eventPort ++ (portsOf ms).take k := by
  induction ms generalizing s with
  | nil => simp [hs] at h
  | cons m ms ih =>
    simp only [runProgram] at h ⊢
    split at h
    next hm =>
      obtain ⟨hc, hp, hf, sr, e⟩ := runMicro_failed hs hm
      rw [if_pos hm, e]
      obtain ⟨p, hp⟩ := Option.isSome_iff_exists.mp hp
      exact ⟨hc, rfl, rfl, 0, by simp [portsOf_cons, hp], by simp, hf, by simp [State.failPort]⟩
    next hm =>
      rw [if_neg hm]
      have hm' : (runMicro m s).aborted = false := by simpa using hm
      obtain ⟨hc, hd, hl, k, hk, hj, hf, ht⟩ := ih hm' h
      rw [runMicro_config] at hc
      obtain ⟨hshift, hfirst⟩ := runMicro_failsAt hc hm'
      refine ⟨hc, hd, hl, (microPort m).toList.length + k, ?_, fun j hjk => ?_, ?_, ?_⟩
      · rw [portsOf_cons, List.length_append]; omega
      · by_cases hp : j < (microPort m).toList.length
        · have : (microPort m).isSome = true := by cases hq : microPort m <;> simp [hq] at hp ⊢
          have h0 : j = 0 := by cases hq : microPort m <;> simp [hq] at hp ⊢; exact hp
          exact h0 ▸ hfirst this
        · obtain ⟨d, rfl⟩ := Nat.exists_eq_add_of_le (Nat.le_of_not_lt hp)
          rw [← hshift]
          exact hj d (by omega)
      · rw [← hshift]; exact hf
      · rw [ht, runMicro_trace hm', portsOf_cons, List.take_length_add_append, List.append_assoc]

/-- Where an event of a program fails, the program fails. -/
theorem runProgram_fails {ms : List Micro} {s : State} {k : Nat} (hc : s.config.portCanFail = true)
    (hf : s.failsAt k = true) (hk : k < (portsOf ms).length) : (runProgram ms s).aborted = true := by
  induction ms generalizing s k with
  | nil => simp [portsOf] at hk
  | cons m ms ih =>
    rw [runProgram]
    split
    · assumption
    next hm =>
      obtain ⟨hshift, hfirst⟩ := runMicro_failsAt hc (by simpa using hm)
      have hlen : (microPort m).toList.length ≤ k := by
        cases hq : microPort m with
        | none => simp
        | some p =>
          by_contra hlt
          have h0 : k = 0 := by simpa using hlt
          rw [h0, hfirst (by simp [hq])] at hf
          exact absurd hf (by simp)
      obtain ⟨d, rfl⟩ := Nat.exists_eq_add_of_le hlen
      refine ih (k := d) (by rwa [runMicro_config]) (by rwa [hshift]) ?_
      rw [portsOf_cons, List.length_append] at hk
      omega

/-- The levels sampled in a program's events are the environment's answers in order, failures or not. -/
theorem runProgram_samples (ms : List Micro) (s : State) :
    ∃ es, (runProgram ms s).trace = s.trace ++ es ∧ samplesOf es = s.levels (samplesOf es).length ∧
      (runProgram ms s).answers = s.answers.drop (samplesOf es).length ∧
      (runProgram ms s).samples = s.samples + (samplesOf es).length := by
  have he : ∀ (p : Port) (s : State), ∃ es, (emit p s).trace = s.trace ++ es ∧
      samplesOf es = s.levels (samplesOf es).length ∧ (emit p s).answers = s.answers.drop (samplesOf es).length ∧
      (emit p s).samples = s.samples + (samplesOf es).length := by
    intro p s
    rcases emit_cases p s with ⟨_, e⟩ | ⟨_, _, e⟩ | ⟨_, _, e⟩
    · rw [e]; cases p <;> exact ⟨[_], rfl, by simp [samplesOf, State.levels], by simp [samplesOf, State.performPort],
        by simp [samplesOf, State.performPort]⟩
    · rw [e]; cases p <;> exact ⟨[_], rfl, by simp [samplesOf, State.levels, State.levelAt],
        by simp [samplesOf, State.performPort], by simp [samplesOf, State.performPort]⟩
    · exact ⟨[], by simp [e], rfl, by simp [e, samplesOf], by simp [e, samplesOf]⟩
  have hm : ∀ (m : Micro) (s : State), ∃ es, (runMicro m s).trace = s.trace ++ es ∧
      samplesOf es = s.levels (samplesOf es).length ∧ (runMicro m s).answers = s.answers.drop (samplesOf es).length ∧
      (runMicro m s).samples = s.samples + (samplesOf es).length := by
    intro m s
    cases m with
    | port p => exact he p s
    | sample => exact he .smp s
    | decodeTc => simp only [runMicro]; split <;> exact ⟨[], by simp, rfl, rfl, rfl⟩
    | decodeCj => simp only [runMicro]; split <;> exact ⟨[], by simp, rfl, rfl, rfl⟩
    | _ => exact ⟨[], by simp [runMicro], rfl, rfl, rfl⟩
  induction ms generalizing s with
  | nil => exact ⟨[], by simp, rfl, rfl, rfl⟩
  | cons m ms ih =>
    rw [runProgram]
    split
    · exact hm m s
    · obtain ⟨es, h1, h2, h3, h4⟩ := hm m s
      obtain ⟨fs, i1, i2, i3, i4⟩ := ih (runMicro m s)
      refine ⟨es ++ fs, by rw [i1, h1, List.append_assoc], ?_, ?_, ?_⟩
      · rw [samplesOf_append, List.length_append, levels_drop h3 h4, ← h2, ← i2]
      · rw [i3, h3, samplesOf_append, List.length_append, List.drop_drop]
      · rw [i4, h4, samplesOf_append, List.length_append, Nat.add_assoc]

/-! ### What the sampled levels cannot change -/

/-- Two states alike but for the levels sampled and what is made of them. -/
structure SameShape (s t : State) : Prop where
  config   : s.config = t.config
  dir      : s.dir = t.dir
  lvl      : s.lvl = t.lvl
  inited   : s.inited = t.inited
  busy     : s.busy = t.busy
  seq      : s.seq = t.seq
  aborted  : s.aborted = t.aborted
  trace    : s.trace.map eventPort = t.trace.map eventPort
  failures : s.failures = t.failures
  attempts : s.attempts = t.attempts

theorem performPort_sameShape {s t : State} (h : SameShape s t) (p : Port) :
    SameShape (s.performPort p) (t.performPort p) := by
  obtain ⟨h1, h2, h3, h4, h5, h6, h7, h8, h9, h10⟩ := h
  cases p <;> constructor <;> simp [State.performPort, *, eventPort]

theorem emit_sameShape {s t : State} (h : SameShape s t) (p : Port) : SameShape (emit p s) (emit p t) := by
  have hn : s.failsAt 0 = t.failsAt 0 := failsAt_congr h.failures h.attempts 0
  have hs : SameShape s.spendFailure t.spendFailure :=
    { h with failures := by simp [h.failures], attempts := by simp [h.attempts] }
  unfold emit
  rw [h.config, hn]
  split
  · split
    · exact { hs with dir := rfl, lvl := rfl, aborted := rfl }
    · exact performPort_sameShape hs p
  · exact performPort_sameShape h p

theorem runMicro_sameShape {s t : State} (h : SameShape s t) (m : Micro) : SameShape (runMicro m s) (runMicro m t) := by
  cases m with
  | port p => exact emit_sameShape h p
  | sample => exact { emit_sameShape h .smp with }
  | setInited => exact { h with inited := rfl }
  | decodeTc => simp only [runMicro]; split <;> split <;> exact { h with }
  | decodeCj => simp only [runMicro]; split <;> split <;> exact { h with }
  | _ => exact { h with }

/-- The levels sampled never steer a program. -/
theorem runProgram_sameShape {s t : State} (h : SameShape s t) (ms : List Micro) :
    SameShape (runProgram ms s) (runProgram ms t) := by
  induction ms generalizing s t with
  | nil => exact h
  | cons m ms ih =>
    have hm := runMicro_sameShape h m
    simp only [runProgram, hm.aborted]
    split
    · exact hm
    · exact ih hm

end Sys2Proof.Machine
end

