-- ==== Sys2Proof/Laws/PerInstr.lean ====
section
/-! SUPPORT. Statements made for each instruction: the family Spelling says that the word of an instruction decodes to it. -/

namespace Sys2Proof.Laws.Spelling

/-- Where a word carries the operands, it decodes to the instruction (R86 to R88, R97, R98). -/
def Statement (i : Instr) : Prop := i.spelled = true → decode (encodeWord i) = .ok i

theorem init : Statement .init := fun _ => decode_init

theorem sendbyte (value : Nat) : Statement (.sendbyte value) := fun h => by
  simp only [Instr.spelled, valueOk, decide_eq_true_eq] at h
  rw [encodeWord, decode_sendbyte, BitVec.toNat_ofNat, Nat.mod_eq_of_lt h]

theorem recvbyte : Statement .recvbyte := fun _ => decode_recvbyte

theorem wrreg (address value : Nat) : Statement (.wrreg address value) := fun h => by
  simp only [Instr.spelled, valueOk, addressOk, Bool.and_eq_true, decide_eq_true_eq] at h
  rw [encodeWord, decode_wrreg, BitVec.toNat_ofNat, BitVec.toNat_ofNat, Nat.mod_eq_of_lt h.1, Nat.mod_eq_of_lt h.2]

theorem rdregs (startAddress count : Nat) : Statement (.rdregs startAddress count) := fun h => by
  simp only [Instr.spelled, addressOk, Bool.and_eq_true, decide_eq_true_eq] at h
  rw [encodeWord, decode_rdregs, BitVec.toNat_ofNat, BitVec.toNat_ofNat, Nat.mod_eq_of_lt h.1, Nat.mod_eq_of_lt h.2]

theorem reqconv : Statement .reqconv := fun _ => decode_reqconv

theorem rdcj : Statement .rdcj := fun _ => decode_rdcj

theorem rdtc : Statement .rdtc := fun _ => decode_rdtc

theorem dectc (high mid low : Byte) : Statement (.dectc high mid low) := fun _ =>
  congrArg Except.ok (decodeTc32_tcWord high mid low)

theorem deccj (offset msb lsb : Byte) : Statement (.deccj offset msb lsb) := fun _ =>
  congrArg Except.ok (decodeCj24_cjWord offset msb lsb)

theorem faultsel (fault : Byte) : Statement (.faultsel fault) := fun _ => rfl

end Sys2Proof.Laws.Spelling
end

