-- ==== Sys2Proof/Laws/Sequencer.lean ====
section
/-! SUPPORT. The sequencer moved one port event at a time runs an operation's program (R24). -/

namespace Sys2Proof.Machine

/-- The meaning of every operation is its program and its ending; the three functions have neither. -/
theorem exec_eq_performOp {i : Instr} {s : State} (h : portsOf (programOf s.config i) ≠ []) :
    exec i s = performOp i (programOf s.config i) (endingOf i) s := by
  cases i with
  | dectc _ _ _ => exact absurd rfl h
  | deccj _ _ _ => exact absurd rfl h
  | faultsel _ => exact absurd rfl h
  | _ => rfl

@[simp] theorem afterPorts_zero (ms : List Micro) : afterPorts 0 ms = ms := by cases ms <;> rfl

/-- What is left after `k + 1` events is what is left after one of what is left after `k`. -/
theorem afterPorts_succ (k : Nat) (ms : List Micro) : afterPorts (k + 1) ms = afterPorts 1 (afterPorts k ms) := by
  induction ms generalizing k with
  | nil => cases k <;> rfl
  | cons m ms ih =>
    cases k with
    | zero => rfl
    | succ k =>
      simp only [afterPorts]
      split
      · exact ih k
      · exact ih (k + 1)

theorem length_portsOf_afterPorts (k : Nat) (ms : List Micro) :
    (portsOf (afterPorts k ms)).length = (portsOf ms).length - k := by
  induction ms generalizing k with
  | nil => cases k <;> simp [afterPorts, portsOf]
  | cons m ms ih =>
    cases k with
    | zero => simp
    | succ k => cases hm : microPort m <;> simp [afterPorts, portsOf_cons, hm, ih]

theorem moveLines_of_no_event {ms : List Micro} (h : portsOf ms = []) : moveLines ms = ms := by
  induction ms with
  | nil => rfl
  | cons m ms ih =>
    obtain ⟨hm, hms⟩ := List.append_eq_nil_iff.mp ((portsOf_cons m ms).symm.trans h)
    simp [moveLines, hms, ih hms]

/-- A move takes one event where one is left, and all that is left where it is the last. -/
theorem moveLines_append {ms : List Micro} {n : Nat} (h : (portsOf ms).length = n + 1) :
    (portsOf (moveLines ms)).length = 1 ∧
      (n ≠ 0 → moveLines ms ++ afterPorts 1 ms = ms) ∧ (n = 0 → moveLines ms = ms) := by
  induction ms with
  | nil => simp [portsOf] at h
  | cons m ms ih =>
    rw [portsOf_cons] at h
    cases hm : microPort m with
    | none =>
      rw [hm] at h
      obtain ⟨h1, h2, h3⟩ := ih (by simpa using h)
      simp only [moveLines, hm, Option.isSome_none, Bool.false_eq_true, false_and, if_false, portsOf_cons, afterPorts,
        Option.toList_none, List.nil_append, List.cons_append, List.cons.injEq, true_and]
      exact ⟨h1, h2, h3⟩
    | some p =>
      have hn : (portsOf ms).length = n := by simpa [hm] using h
      by_cases h0 : portsOf ms = []
      · have : n = 0 := by simpa [h0] using hn.symm
        simp [moveLines, h0, moveLines_of_no_event h0, portsOf_cons, hm, this]
      · have : n ≠ 0 := by
          rintro rfl
          exact h0 (List.length_eq_zero_iff.mp hn)
        rw [moveLines, if_pos ⟨by simp [hm], h0⟩, afterPorts, if_pos (by simp [hm]), afterPorts_zero]
        exact ⟨by simp [hm, portsOf], fun _ => rfl, fun h => absurd h this⟩

/-- A line moves SEQ on by the events it emits, where none fails. -/
theorem runMicro_seq {m : Micro} {s : State} (hs : s.config.portCanFail = false) {op : Instr} {k : Nat}
    (hq : s.seq = .running op k) : (runMicro m s).seq = .running op (k + (microPort m).toList.length) := by
  cases m with
  | port p => rw [runMicro, emit_sound hs]; cases p <;> exact congrArg Seq.advance hq
  | sample => rw [runMicro, emit_sound hs]; exact congrArg Seq.advance hq
  | decodeTc => simp only [runMicro]; split <;> exact hq
  | decodeCj => simp only [runMicro]; split <;> exact hq
  | _ => exact hq

theorem runProgram_seq (ms : List Micro) {s : State} (hs : s.config.portCanFail = false) (ha : s.aborted = false)
    {op : Instr} {k : Nat} (hq : s.seq = .running op k) :
    (runProgram ms s).seq = .running op (k + (portsOf ms).length) := by
  induction ms generalizing s k with
  | nil => exact hq
  | cons m ms ih =>
    rw [runProgram_cons hs ha, ih (by rw [runMicro_config, hs]) (by rw [runMicro_aborted hs, ha]) (runMicro_seq hs hq),
      portsOf_cons, List.length_append, Nat.add_assoc]

/-- One step with an operation in progress. -/
theorem step_running {s : State} {op : Instr} {k : Nat} (ha : s.aborted = false) (hq : s.seq = .running op k) :
    step s = .next (tick op k s) := by
  simp [step, ha, hq]

/-- A move with an event left, where the port does not fail. -/
theorem tick_event {op : Instr} {k : Nat} {s : State} (hf : s.config.portCanFail = false) (ha : s.aborted = false)
    (hk : k < (portsOf (programOf s.config op)).length) :
    tick op k s = runProgram (moveLines (afterPorts k (programOf s.config op))) s := by
  rw [tick, if_neg (by omega), State.conclude, if_neg (by simp [runProgram_aborted hf ha]), id]

/-- The move after the last event. -/
theorem tick_response {op : Instr} {k : Nat} {s : State} (ha : s.aborted = false)
    (hk : (portsOf (programOf s.config op)).length ≤ k) : tick op k s = endingOf op s := by
  rw [tick, if_pos hk, State.conclude, if_neg (by simp [ha])]

/-- One step more is a step from where the steps before end. -/
theorem run_succ {k : Nat} {s t : State} (h : Host.Core.run Sys2Proof.core k s = .next t) :
    Host.Core.run Sys2Proof.core (k + 1) s = step t := by
  induction k generalizing s with
  | zero =>
    obtain rfl := Host.Outcome.next.inj h
    simp only [Host.Core.run, show Sys2Proof.core.step s = step s from rfl]
    cases step s <;> rfl
  | succ k ih =>
    simp only [Host.Core.run] at h ⊢
    split at h
    next s' hs' => exact ih h
    all_goals cases h

/-- After `k` moves from the acceptance of a request `k` events have been emitted: the lines that have run and those that are
left make up the program, and after the last event none is left. -/
theorem run_events {op : Instr} {s : State} (hf : s.config.portCanFail = false) (ha : s.aborted = false)
    (hne : portsOf (programOf s.config op) ≠ []) {k : Nat} (hk : k ≤ (portsOf (programOf s.config op)).length) :
    ∃ done rest, done ++ rest = programOf s.config op ∧ (portsOf done).length = k ∧
      (k < (portsOf (programOf s.config op)).length → rest = afterPorts k (programOf s.config op)) ∧
      (k = (portsOf (programOf s.config op)).length → rest = []) ∧
      Host.Core.run Sys2Proof.core k (s.accept op) = .next (runProgram done (s.accept op)) := by
  induction k with
  | zero =>
    refine ⟨[], programOf s.config op, rfl, rfl, fun _ => by simp, fun h => ?_, rfl⟩
    exact absurd (List.length_eq_zero_iff.mp h.symm) hne
  | succ k ih =>
    obtain ⟨done, rest, hp, hd, hr, -, hrun⟩ := ih (by omega)
    have hr := hr hk
    obtain ⟨n, hn⟩ : ∃ n, (portsOf rest).length = n + 1 := by
      rw [hr, length_portsOf_afterPorts]
      exact ⟨_, (Nat.succ_pred_eq_of_pos (by omega)).symm⟩
    have hlen : (portsOf (programOf s.config op)).length = k + (n + 1) := by
      rw [← hp, portsOf_append, List.length_append, hd, hn]
    obtain ⟨h1, hmore, hlast⟩ := moveLines_append hn
    have hf' : (s.accept op).config.portCanFail = false := hf
    have ht : (runProgram done (s.accept op)).aborted = false := runProgram_aborted hf' ha done
    have hseq : (runProgram done (s.accept op)).seq = .running op k := by
      simpa [hd] using runProgram_seq done hf' ha (op := op) (k := 0) rfl
    have hc : (runProgram done (s.accept op)).config = s.config := runProgram_config done _
    have hstep : Host.Core.run Sys2Proof.core (k + 1) (s.accept op) =
        .next (runProgram (done ++ moveLines rest) (s.accept op)) := by
      rw [run_succ hrun, step_running ht hseq, tick_event (by rw [hc, hf]) ht (by rw [hc]; omega), hc, ← hr,
        runProgram_append hf' ha]
      rfl
    have hcount : (portsOf (done ++ moveLines rest)).length = k + 1 := by
      rw [portsOf_append, List.length_append, hd, h1]
    by_cases h0 : n = 0
    · exact ⟨_, [], by rw [List.append_nil, hlast h0, hp], hcount, fun h => by omega, fun _ => rfl, hstep⟩
    · exact ⟨_, afterPorts 1 rest, by rw [List.append_assoc, hmore h0, hp], hcount,
        fun _ => by rw [afterPorts_succ k, ← hr], fun h => by omega, hstep⟩

/-- One move for each event, and one for the response, end where the operation ends. -/
theorem run_sequencer {op : Instr} {s : State} (hf : s.config.portCanFail = false) (ha : s.aborted = false)
    (hne : portsOf (programOf s.config op) ≠ []) :
    Host.Core.run Sys2Proof.core ((portsOf (programOf s.config op)).length + 1) (s.accept op) =
      .next (endingOf op (runProgram (programOf s.config op) (s.accept op))) := by
  obtain ⟨done, rest, hp, hd, -, hr, hrun⟩ := run_events hf ha hne le_rfl
  obtain rfl : done = programOf s.config op := by rw [← hp, hr rfl, List.append_nil]
  have hf' : (s.accept op).config.portCanFail = false := hf
  rw [run_succ hrun, step_running (runProgram_aborted hf' ha _)
    (by simpa using runProgram_seq (programOf s.config op) hf' ha (op := op) (k := 0) rfl),
    tick_response (runProgram_aborted hf' ha _) (by rw [runProgram_config]; exact le_of_eq (by simp [State.accept]))]
  rfl

end Sys2Proof.Machine
end

