-- ==== Sys2Proof/Laws/Step.lean ====
section
/-! SUPPORT. Everything an instruction and a step can do, said once: the lemmas a proof about all instructions or all steps
cites instead of unfolding them. -/

namespace Sys2Proof.Machine

/-- A function used on its own: RAW and Q perhaps written, a result, nothing else (R160, R166, R172). -/
theorem exec_function {i : Instr} (h : i.isOperation = false) (s : State) :
    ∃ raw q x, exec i s = .next { s with raw := raw, q := q, results := s.results ++ [x] } := by
  cases i with
  | dectc _ _ _ => exact ⟨_, _, _, rfl⟩
  | deccj _ _ _ => exact ⟨_, _, _, rfl⟩
  | faultsel _ => exact ⟨s.raw, s.q, _, rfl⟩
  | _ => simp [Instr.isOperation] at h

/-- The meaning of every operation is its program and its ending. -/
theorem exec_operation {i : Instr} (h : i.isOperation = true) (s : State) :
    exec i s = performOp i (programOf s.config i) (endingOf i) s := by
  cases i with
  | dectc _ _ _ => simp [Instr.isOperation] at h
  | deccj _ _ _ => simp [Instr.isOperation] at h
  | faultsel _ => simp [Instr.isOperation] at h
  | _ => rfl

/-- Everything an instruction that answers a next state can have done: a function's result, a refusal, or an operation run to its
end. -/
theorem exec_cases {i : Instr} {s t : State} (h : exec i s = .next t) :
    (i.isOperation = false ∧ ∃ raw q x, t = { s with raw := raw, q := q, results := s.results ++ [x] }) ∨
    (i.isOperation = true ∧ s.aborted = false ∧ s.busy = false ∧
      ((∃ why, admission i s = some why ∧ t = s.refuse why) ∨
       (admission i s = none ∧ t = (runProgram (programOf s.config i) (s.accept i)).conclude (endingOf i)))) := by
  cases hi : i.isOperation with
  | false =>
    obtain ⟨raw, q, x, e⟩ := exec_function hi s
    rw [e, Host.Outcome.next.injEq] at h
    exact .inl ⟨rfl, raw, q, x, h.symm⟩
  | true =>
    rw [exec_operation hi] at h
    refine .inr ⟨rfl, ?_⟩
    rcases performOp_cases i (programOf s.config i) (endingOf i) s with
      ⟨_, e⟩ | ⟨_, _, e⟩ | ⟨ha, hb, why, hc, e⟩ | ⟨ha, hb, hc, e⟩ <;> rw [e] at h
    · cases h
    · cases h
    · exact ⟨ha, hb, .inl ⟨why, hc, (Host.Outcome.next.inj h).symm⟩⟩
    · exact ⟨ha, hb, .inr ⟨hc, (Host.Outcome.next.inj h).symm⟩⟩

/-- How an operation ends: released, with one response or, where a register it would answer has no value, none (log 21). -/
theorem endingOf_cases (i : Instr) (s : State) : endingOf i s = s.release ∨ ∃ r, r ≠ .abort ∧
    (i ≠ .rdtc → ∀ k, r ≠ .fault k) ∧ endingOf i s = s.respond r := by
  cases i with
  | recvbyte =>
    simp only [endingOf, endRecvbyte]
    split
    · exact .inr ⟨_, by simp, by simp, rfl⟩
    · exact .inl rfl
  | rdcj =>
    simp only [endingOf, endRdcj]
    split
    · exact .inr ⟨_, by simp, by simp, rfl⟩
    · exact .inl rfl
  | rdtc =>
    simp only [endingOf, endRdtc]
    split
    · split <;> exact .inr ⟨_, by simp, by simp, rfl⟩
    · exact .inl rfl
  | dectc _ _ _ => exact .inl rfl
  | deccj _ _ _ => exact .inl rfl
  | faultsel _ => exact .inl rfl
  | _ => exact .inr ⟨_, by simp, by simp, rfl⟩

/-- Everything the end of an operation leaves alone. -/
theorem conclude_frame (i : Instr) (s : State) :
    (s.conclude (endingOf i)).config = s.config ∧ (s.conclude (endingOf i)).dir = s.dir ∧
    (s.conclude (endingOf i)).lvl = s.lvl ∧ (s.conclude (endingOf i)).inited = s.inited ∧
    (s.conclude (endingOf i)).aborted = s.aborted ∧ (s.conclude (endingOf i)).trace = s.trace ∧
    (s.conclude (endingOf i)).requests = s.requests ∧ (s.conclude (endingOf i)).probe = s.probe ∧
    (s.conclude (endingOf i)).results = s.results := by
  unfold State.conclude
  split
  · exact ⟨rfl, rfl, rfl, rfl, rfl, rfl, rfl, rfl, rfl⟩
  · rcases endingOf_cases i s with e | ⟨r, _, _, e⟩ <;> rw [e] <;> exact ⟨rfl, rfl, rfl, rfl, rfl, rfl, rfl, rfl, rfl⟩

/-- What an operation leaves to the host and to the model's own fields. -/
theorem exec_frame {i : Instr} (hi : i.isOperation = true) {s t : State} (h : exec i s = .next t) :
    t.config = s.config ∧ t.requests = s.requests ∧ t.probe = s.probe ∧ t.results = s.results := by
  rcases exec_cases h with ⟨ho, _⟩ | ⟨_, _, _, ⟨_, _, rfl⟩ | ⟨_, rfl⟩⟩
  · exact absurd (hi.symm.trans ho) (by simp)
  · exact ⟨rfl, rfl, rfl, rfl⟩
  · obtain ⟨f1, _, _, f2, f3⟩ := runProgram_frame (programOf s.config i) (s.accept i)
    obtain ⟨c0, _, _, _, _, _, c1, c2, c3⟩ := conclude_frame i (runProgram (programOf s.config i) (s.accept i))
    exact ⟨c0.trans (runProgram_config _ _), c1.trans f1, c2.trans f2, c3.trans f3⟩

/-- Everything a move of the sequencer can do: end the operation, or run some of its lines, ending it there if they failed. -/
theorem tick_cases (op : Instr) (k : Nat) (s : State) : tick op k s = s.conclude (endingOf op) ∨
    ∃ ms ⊆ programOf s.config op, tick op k s = (runProgram ms s).conclude id := by
  have hafter : ∀ (ms : List Micro) (k : Nat), afterPorts k ms ⊆ ms := by
    intro ms
    induction ms with
    | nil => intro k; cases k <;> exact List.Subset.refl _
    | cons m ms ih =>
      intro k
      cases k with
      | zero => exact List.Subset.refl _
      | succ k =>
        simp only [afterPorts]
        split <;> exact List.Subset.trans (ih _) (List.subset_cons_self m ms)
  have hmove : ∀ ms : List Micro, moveLines ms ⊆ ms := by
    intro ms
    induction ms with
    | nil => exact List.Subset.refl _
    | cons m ms ih =>
      simp only [moveLines]
      split
      · simp
      · exact List.cons_subset_cons m ih
  unfold tick
  split
  · exact .inl rfl
  · exact .inr ⟨_, List.Subset.trans (hmove _) (hafter _ k), rfl⟩

/-- What a move of the sequencer leaves to the host and to the model's own fields. -/
theorem tick_frame (op : Instr) (k : Nat) (s : State) :
    (tick op k s).config = s.config ∧ (tick op k s).requests = s.requests ∧ (tick op k s).probe = s.probe ∧
      (tick op k s).results = s.results := by
  rcases tick_cases op k s with e | ⟨ms, _, e⟩
  · obtain ⟨c0, _, _, _, _, _, c1, c2, c3⟩ := conclude_frame op s
    exact e ▸ ⟨c0, c1, c2, c3⟩
  · obtain ⟨f1, _, _, f2, f3⟩ := runProgram_frame ms s
    rw [e, State.conclude]
    split <;> exact ⟨runProgram_config ms s, f1, f2, f3⟩

theorem evaluate_of_exec {d : DataWord} {s t : State} (h : exec (decodeData d) s = .next t) :
    evaluate d s = .next t.clearTransients := by rw [evaluate, h]

/-- A use of a function: its result, and no transient register with a value. -/
theorem evaluate_eq (d : DataWord) (s : State) :
    ∃ x, evaluate d s = .next { s.clearTransients with results := s.results ++ [x] } := by
  have h : (decodeData d).isOperation = false := by cases d <;> rfl
  obtain ⟨raw, q, x, e⟩ := exec_function h s
  exact ⟨x, evaluate_of_exec e⟩

/-- Everything a step that answers a next state can have done. -/
theorem step_cases {s t : State} (h : step s = .next t) : s.aborted = false ∧
    ((∃ op k, s.seq = .running op k ∧ t = tick op k s) ∨
     (s.seq = .idle ∧ ∃ d x, s.probe = some d ∧
       t = { s.clearTransients with probe := none, results := s.results ++ [x] }) ∨
     (s.seq = .idle ∧ s.probe = none ∧ s.requests = [] ∧ t = s) ∨
     (s.seq = .idle ∧ s.probe = none ∧ ∃ r rest, s.requests = r :: rest ∧
       ((∃ i, r.instr = .ok i ∧ exec i { s with requests := rest } = .next t) ∨
        (s.busy = false ∧ (∃ e, r.instr = .error e) ∧ t = State.refuse .reserved { s with requests := rest })))) := by
  unfold step at h
  split at h
  · cases h
  next ha =>
    refine ⟨by simpa using ha, ?_⟩
    split at h
    next op k hq => exact .inl ⟨op, k, hq, (Host.Outcome.next.inj h).symm⟩
    next hq =>
      right
      split at h
      next d hd =>
        obtain ⟨x, e⟩ := evaluate_eq d { s with probe := none }
        rw [e] at h
        exact .inl ⟨hq, d, x, hd, (Host.Outcome.next.inj h).symm⟩
      next hd =>
        right
        split at h
        next hr => exact .inl ⟨hq, hd, hr, (Host.Outcome.next.inj h).symm⟩
        next r rest hr =>
          refine .inr ⟨hq, hd, r, rest, hr, ?_⟩
          unfold serve at h
          split at h
          next i hi => exact .inl ⟨i, hi, h⟩
          next e he =>
            unfold refuseReserved at h
            split at h
            · cases h
            next hb => exact .inr ⟨by simpa using hb, ⟨e, he⟩, (Host.Outcome.next.inj h).symm⟩

/-- No request names a function (R90). -/
theorem request_isOperation {r : Request} {i : Instr} (h : r.instr = .ok i) : i.isOperation = true := by
  cases r with
  | call op =>
    obtain rfl : op.val = i := by simpa [Request.instr] using h
    exact op.property
  | word w =>
    simp only [Request.instr, decodeCmd16, decodePlain] at h
    split at h <;> (try split at h) <;> cases h <;> rfl

end Sys2Proof.Machine
end

