-- ==== Sys2Proof/Tests/Slice0.lean ====
section
/-! SUPPORT. Smoke tests of WellFormed, decode tests on words written out from 30_encoding.md, one-step tests whose expected
values are the vectors of 95_test_vectors.md, and for every statement with hypotheses a witness that meets them. -/

namespace Sys2Proof.Tests

-- One theorem after another: each check of a closed fact would take a thread of its own.
set_option Elab.async false

open Sys2Proof Sys2Proof.Machine

/-! ### Helpers -/

/-- The next state an outcome holds. -/
def nextOf : Host.Outcome State Fault Refusal → Option State
  | .next t => some t
  | .fault _ => none
  | .refused _ => none

/-- The next state, or `s` where there is none. -/
def nextOr (s : State) (o : Host.Outcome State Fault Refusal) : State := (nextOf o).getD s

theorem next_of_some {o : Host.Outcome State Fault Refusal} (h : (nextOf o).isSome = true) : ∃ t, o = .next t := by
  cases o with
  | next t => exact ⟨t, rfl⟩
  | fault _ => exact absurd h (by simp [nextOf])
  | refused _ => exact absurd h (by simp [nextOf])

/-- The levels of some bytes on the wire, bit 7 first (R51). -/
def bitsOf (bs : List Byte) : List Level := bs.flatMap fun b => (List.range 8).map fun i => b.getLsbD (7 - i)

/-- The block after INIT (V-D1). -/
def built : State := nextOr State.reset (exec .init State.reset)

/-- The block after INIT with the environment about to answer some bytes. -/
def answering (bs : List Byte) : State := { built with answers := bitsOf bs }

/-- The block after INIT on a port that can fail and answers so. -/
def failing (fs : List Bool) : State :=
  { built with config := { built.config with portCanFail := true }, failures := fs }

/-- The block after an Abort. -/
def broken : State := nextOr State.reset (exec .reqconv (failing [true]))

/-- The last response after an outcome. -/
def answerOf (o : Host.Outcome State Fault Refusal) : Option Response := (nextOf o).bind fun t => t.responses.getLast?

/-! ### WellFormed: each check refuses an ill-formed term -/

theorem test_wf_sendbyte : Instr.wellFormed (.sendbyte 255) = true ∧ Instr.wellFormed (.sendbyte 256) = false := by decide
theorem test_wf_wrreg_address : Instr.wellFormed (.wrreg 15 0) = true ∧ Instr.wellFormed (.wrreg 16 0) = false := by decide
theorem test_wf_wrreg_value : Instr.wellFormed (.wrreg 0 255) = true ∧ Instr.wellFormed (.wrreg 0 256) = false := by decide
theorem test_wf_rdregs_address : Instr.wellFormed (.rdregs 15 1) = true ∧ Instr.wellFormed (.rdregs 16 1) = false := by decide
theorem test_wf_rdregs_count : Instr.wellFormed (.rdregs 0 1) = true ∧ Instr.wellFormed (.rdregs 0 0) = false := by decide
theorem test_spelled_count : Instr.spelled (.rdregs 0 255) = true ∧ Instr.spelled (.rdregs 0 256) = false := by decide
theorem test_pins_distinct : PinMap.distinct ⟨8, 9, 10, 11⟩ = true ∧ PinMap.distinct ⟨8, 9, 9, 11⟩ = false := by decide
theorem test_init_order :
    Config.wf { Config.thisHardware with initOrder := .cfgIn :: Config.defaultInitOrder.dropLast } = true ∧
    Config.wf { Config.thisHardware with initOrder := Config.defaultInitOrder.reverse } = false := by decide

/-! ### Decoding: words written out bit by bit from R97, R98, R86 to R88 -/

/-- V-E1: op 0, a 0, d 0. -/
theorem test_decode_init : decodeTableWord 16 0b0000000000000000 = some .init := by decide
/-- V-E2: op 1, a 0, d 0xA5. -/
theorem test_decode_sendbyte : decodeTableWord 16 0b0001000010100101 = some (.sendbyte 0xA5) := by decide
/-- V-E3: op 2. -/
theorem test_decode_recvbyte : decodeTableWord 16 0b0010000000000000 = some .recvbyte := by decide
/-- V-E4: op 3, a 1, d 3. -/
theorem test_decode_wrreg : decodeTableWord 16 0b0011000100000011 = some (.wrreg 1 3) := by decide
/-- V-E8: op 4, a 12, d 4. -/
theorem test_decode_rdregs : decodeTableWord 16 0b0100110000000100 = some (.rdregs 12 4) := by decide
/-- V-E10: op 5. -/
theorem test_decode_reqconv : decodeTableWord 16 0b0101000000000000 = some .reqconv := by decide
/-- V-E11: op 6. -/
theorem test_decode_rdcj : decodeTableWord 16 0b0110000000000000 = some .rdcj := by decide
/-- V-E12: op 7. -/
theorem test_decode_rdtc : decodeTableWord 16 0b0111000000000000 = some .rdtc := by decide
/-- TC32 (R86): high 0x12, mid 0x34, low 0x56, fault byte 0xFF. -/
theorem test_decode_dectc :
    decodeTableWord 32 0b00010010001101000101011011111111 = some (.dectc 0x12 0x34 0x56) := by decide
/-- CJ24 (R87): offset 0x01, msb 0x19, lsb 0x43. -/
theorem test_decode_deccj : decodeTableWord 24 0b000000010001100101000011 = some (.deccj 0x01 0x19 0x43) := by decide
/-- FAULT8 (R88): row 4. -/
theorem test_decode_faultsel : decodeTableWord 8 0b00011000 = some (.faultsel 0x18) := by decide
/-- V-X8, V-X9, V-X10, V-X12 and P5's word: reserved. -/
theorem test_decode_reserved : [0x8000, 0x7001, 0x1100, 0xFFFF, 0x9000].map (decodeTableWord 16) =
    [none, none, none, none, none] := by decide
/-- V-X5: an RDREGS word with `d = 0` decodes. -/
theorem test_decode_count_zero : decodeTableWord 16 0x4C00 = some (.rdregs 12 0) := by decide
/-- V-E6, V-E7, V-E9 the other way. -/
theorem test_encode : [Instr.wrreg 15 0xFF, .rdregs 9 3, .rdregs 15 1].map encode =
    [some (.cmd16 0x3FFF), some (.cmd16 0x4903), some (.cmd16 0x4F01)] := by decide
/-- V-X6, V-X7: operands no word carries. -/
theorem test_encode_none : [Instr.wrreg 16 0, .sendbyte 256, .rdregs 0 256].map encode = [none, none, none] := by decide

/-! ### One step of each instruction -/

/-- V-D1: 57 events in this order, and the levels left. -/
theorem test_init : built.trace.length = 57 ∧
    built.trace.take 8 = [.cfgOut .cs, .cfgOut .clk, .cfgOut .mosi, .drv .cs true, .drv .clk false, .drv .mosi false,
      .cfgIn, .drv .cs false] ∧
    drivesOf .mosi built.trace = [false,
      true, false, false, false, false, false, false, true, false, false, false, false, false, false, true, true] ∧
    built.lvl = ⟨some true, some false, some true⟩ ∧
    built.dir = ⟨some .out, some .out, some .out, some .input⟩ ∧ built.inited = true ∧
    built.responses = [.done] := by decide +kernel
/-- V-X3, V-X4. -/
theorem test_init_refused : answerOf (exec .init built) = some (.refused .alreadyInited) ∧
    answerOf (exec .init { State.reset with config := { Config.thisHardware with pins := ⟨8, 9, 9, 11⟩ } }) =
      some (.refused .notDistinctPins) := by decide +kernel
/-- V-C1: the 24 events of `0xA5`. -/
theorem test_sendbyte : (nextOr State.reset (exec (.sendbyte 0xA5) built)).trace.drop 57 =
    [.drv .clk true, .drv .mosi true, .drv .clk false, .drv .clk true, .drv .mosi false, .drv .clk false,
     .drv .clk true, .drv .mosi true, .drv .clk false, .drv .clk true, .drv .mosi false, .drv .clk false,
     .drv .clk true, .drv .mosi false, .drv .clk false, .drv .clk true, .drv .mosi true, .drv .clk false,
     .drv .clk true, .drv .mosi false, .drv .clk false, .drv .clk true, .drv .mosi true, .drv .clk false] := by
  decide +kernel
/-- V-X7, and a word before INIT. -/
theorem test_sendbyte_refused : answerOf (exec (.sendbyte 256) built) = some (.refused .badValue) ∧
    answerOf (exec (.sendbyte 256) State.reset) = some (.refused .notInited) := by decide +kernel
/-- V-C4, third and fourth rows against a swapped bit order. -/
theorem test_recvbyte :
    answerOf (exec .recvbyte { built with answers := [true, false, false, false, false, false, false, false] }) =
      some (.okByte 0x80) ∧
    answerOf (exec .recvbyte { built with answers := [false, false, false, true, true, false, false, true] }) =
      some (.okByte 0x19) := by decide +kernel
/-- V-C6: the bytes `0x8F 0xFF`, and chip-select low then high. -/
theorem test_wrreg : let t := nextOr State.reset (exec (.wrreg 15 0xFF) built)
    drivesOf .mosi (t.trace.drop 57) = [true, false, false, false, true, true, true, true,
      true, true, true, true, true, true, true, true] ∧
    drivesOf .cs (t.trace.drop 57) = [false, true] ∧ t.trace.length = 107 ∧ t.responses = [.done, .done] := by
  decide +kernel
/-- V-X6. -/
theorem test_wrreg_refused : nextOf (exec (.wrreg 16 0) built) =
    some { built with responses := [.done, .refused .badAddress] } := by decide +kernel
/-- V-C9: the first byte received comes first. -/
theorem test_rdregs : let t := nextOr State.reset (exec (.rdregs 12 4) (answering [0x12, 0x34, 0x56, 0x00]))
    t.responses = [.done, .okBytes [0x12, 0x34, 0x56, 0x00]] ∧ t.trace.length = 179 ∧
    drivesOf .mosi (t.trace.drop 57) = [false, false, false, false, true, true, false, false] := by decide +kernel
/-- V-X5, V-X11. -/
theorem test_rdregs_refused : answerOf (exec (.rdregs 12 0) built) = some (.refused .badCount) ∧
    answerOf (exec (.rdregs 12 0) State.reset) = some (.refused .notInited) := by decide +kernel
/-- V-D2: 51 events, the delay last, MOSI `1000000001000010`. -/
theorem test_reqconv : let t := nextOr State.reset (exec .reqconv built)
    t.trace.length = 108 ∧ t.trace.getLast? = some (.wait 200) ∧ t.lvl.mosi = some false ∧
    drivesOf .mosi (t.trace.drop 57) = [true, false, false, false, false, false, false, false,
      false, true, false, false, false, false, true, false] := by decide +kernel
/-- V-D3, second and third rows. -/
theorem test_rdcj : answerOf (exec .rdcj (answering [0x10, 0x19, 0x00])) = some (.okCj 1616) ∧
    answerOf (exec .rdcj (answering [0xFF, 0xFF, 0xFF])) = some (.okCj 16638) := by decide +kernel
/-- V-D4: V-S9, and no sign extension. -/
theorem test_rdtc : answerOf (exec .rdtc (answering [0x19, 0x00, 0x00, 0x00])) = some (.okTc 51200) ∧
    answerOf (exec .rdtc (answering [0xFF, 0xFF, 0xE0, 0x00])) = some (.okTc 524287) := by decide +kernel
/-- V-S5, P3. -/
theorem test_rdtc_fault : answerOf (exec .rdtc (answering [0x19, 0x00, 0x00, 0x81])) = some (.fault .cjRange) ∧
    answerOf (exec .rdtc (answering [0x19, 0x00, 0x00, 0x05])) = some (.fault .tcLow) := by decide +kernel
/-- V-T1, V-T3, V-T7, V-T13. -/
theorem test_dectc : [decTc 0x19 0 0, decTc 0 0 0x1F, decTc 0x80 0 0, decTc 0x12 0x34 0x56] =
    [51200, 0, 262144, 37282] := by decide
/-- V-J2, V-J3, V-J7, V-J11. -/
theorem test_deccj : [decCj 0x10 0x19 0, decCj 0xFF 0xFF 0xFF, decCj 0x80 0 0, decCj 0x01 0x19 0x43] =
    [1616, 16638, 128, 1617] := by decide
/-- V-F1, V-F2, V-F7, V-F8, V-F10. -/
theorem test_faultsel : [0x00, 0x81, 0x7F, 0x18, 0x03].map (faultSel .bitset) =
    [none, some .cjRange, some .tcRange, some .cjLow, some .ovuv] := by decide
/-- R173's reading for information: `equals_one` sees bit 0 only. -/
theorem test_faultsel_equals_one : [0x81, 0x80].map (faultSel .equalsOne) = [some .openCircuit, none] := by decide

/-! ### The step -/

/-- V-E1 as the first request after reset. -/
theorem test_first_step : nextOf (step (State.reset.withFetchWord 16 0x0000)) = some built := by decide +kernel
/-- V-X8: a reserved word is refused whatever INITED is. -/
theorem test_reserved_step : (nextOf (step (State.reset.withFetchWord 16 0x8000))).map State.responses =
    some [.refused .reserved] := by decide +kernel
/-- R24: one move of the sequencer is one event. -/
theorem test_sequencer_step : (nextOf (step (built.accept .reqconv))).map (fun t => (t.trace.drop 57, t.seq)) =
    some ([.drv .cs false], .running .reqconv 1) := by decide +kernel
/-- V-S9 as a use of DECTC on its own: a result, nothing for the host, no register with a value (R22, R90). -/
theorem test_function_step : let t := nextOr State.reset (step (built.withFetchWord 32 0x19000081))
    t.results = [.tc 51200] ∧ t.responses = [.done] ∧ t.raw = none ∧ t.q = none ∧ t.probe = none := by
  decide +kernel
/-- R195: the second event fails; the last one, the delay, fails ("any port event may fail"). -/
theorem test_abort : let t := nextOr State.reset (exec .reqconv (failing [false, true]))
    let u := nextOr State.reset (exec .reqconv (failing (List.replicate 50 false ++ [true])))
    t.trace.drop 57 = [.drv .cs false] ∧ t.lvl = ⟨none, none, none⟩ ∧ t.aborted = true ∧
    t.responses = [.done, .abort] ∧ u.aborted = true ∧ u.trace.length = 107 ∧ u.lvl = ⟨none, none, none⟩ ∧
    u.responses = [.done, .abort] := by decide +kernel

/-! ### Witnesses: what meets the hypotheses of each statement -/

theorem ready_built : Ready built := by unfold Ready; decide +kernel
theorem ready_answering (bs : List Byte) : Ready (answering bs) := ready_built
theorem readyForInit_reset : ReadyForInit State.reset := by unfold ReadyForInit; decide +kernel
theorem inv_built : IdleInv built := by
  have ha : built.aborted = false := by decide +kernel
  have hi : built.inited = true := by decide +kernel
  refine ⟨by decide +kernel, ?_, by simp [ha], by simp [hi], fun _ _ => ?_⟩
  · unfold BetweenOps
    decide +kernel
  · unfold IdleLines
    decide +kernel
theorem inv_reset : IdleInv State.reset :=
  ⟨by decide, ⟨rfl, rfl, rfl, rfl, rfl, rfl, rfl, rfl, rfl, rfl⟩, by simp [State.reset], fun _ _ => ⟨rfl, rfl, rfl⟩,
    by simp [State.reset]⟩
theorem lineDiscipline_built : LineDiscipline built := by
  unfold LineDiscipline
  decide +kernel
theorem reset_unbuilt : State.reset.aborted = false ∧ State.reset.busy = false ∧ State.reset.inited = false := by decide

theorem witness_DecodeOfEncodeIsTheInstruction :
    ∀ i ∈ [Instr.init, .sendbyte 255, .recvbyte, .wrreg 15 255, .rdregs 15 0, .rdregs 15 255, .reqconv, .rdcj, .rdtc,
      .dectc 255 255 255, .deccj 255 255 255, .faultsel 255], i.spelled = true := by decide
theorem witness_EncodeOfDecodedCommandWord :
    decode (.cmd16 0x4C00) = .ok (.rdregs 12 0) ∧ decode (.cmd16 0x3FFF) = .ok (.wrreg 15 255) := ⟨by rfl, by rfl⟩
theorem witness_ReservedCommandWords :
    decode (.cmd16 0x8000) = .error .reservedSelector ∧ decode (.cmd16 0x7001) = .error .reservedField ∧
    decode (.cmd16 0x1100) = .error .reservedField ∧ decode (.cmd16 0x7000) = .ok .rdtc := ⟨by rfl, by rfl, by rfl, by rfl⟩
theorem witness_StepServesTheNextRequest :
    broken.aborted = true ∧
    ((built.accept .rdtc).aborted = false ∧ (built.accept .rdtc).seq = .running .rdtc 0) ∧
    (State.reset.aborted = false ∧ State.reset.seq = .idle ∧ State.reset.probe = none ∧ State.reset.requests = []) ∧
    ((State.reset.withFetchWord 16 0).requests = [.word 0] ∧ (State.reset.withFetchWord 16 0).probe = none ∧
      Request.instr (.word 0) = .ok .init) ∧
    ((State.reset.withFetchWord 16 0x8000).requests = [.word 0x8000] ∧
      Request.instr (.word 0x8000) = .error .reservedSelector) ∧
    ((State.reset.withFetchWord 8 0x81).seq = .idle ∧
      (State.reset.withFetchWord 8 0x81).probe = some (.fault8 0x81)) := by
  refine ⟨by decide +kernel, by decide +kernel, by decide, ⟨rfl, rfl, rfl⟩, ⟨rfl, rfl⟩, ⟨rfl, rfl⟩⟩
theorem witness_FetchWordIsRunNext :
    State.reset.aborted = false ∧
    (decodeTableWord 16 0x10A5 = some (.sendbyte 0xA5) ∧ Instr.isOperation (.sendbyte 0xA5) = true) ∧
    (decodeTableWord 8 0x81 = some (.faultsel 0x81) ∧ Instr.isOperation (.faultsel 0x81) = false) := by decide
theorem witness_SendbyteShiftsMsbFirst :
    (Ready built ∧ 255 < 256) ∧ State.reset.aborted = false ∧ State.reset.busy = false ∧ State.reset.inited = false :=
  ⟨⟨ready_built, by decide⟩, reset_unbuilt⟩
theorem witness_RecvbyteBuildsTheByteMsbFirst :
    Ready (answering [0xA5]) ∧ State.reset.aborted = false ∧ State.reset.busy = false ∧ State.reset.inited = false :=
  ⟨ready_answering _, reset_unbuilt⟩
theorem witness_WrregSendsCommandThenValue :
    (Ready built ∧ 15 < 16 ∧ 255 < 256) ∧
    State.reset.aborted = false ∧ State.reset.busy = false ∧ State.reset.inited = false :=
  ⟨⟨ready_built, by decide, by decide⟩, reset_unbuilt⟩
theorem witness_RdregsReceivesCountBytes :
    (Ready built ∧ 15 < 16 ∧ 0 < 300 ∧ ∀ m, built.config.maxCount = some m → 300 ≤ m) ∧ 0 ≤ 300 ∧ 300 ≤ 300 ∧
    State.reset.aborted = false ∧ State.reset.busy = false ∧ State.reset.inited = false :=
  ⟨⟨ready_built, by decide, by decide, by
    rw [show built.config.maxCount = none by decide +kernel]
    simp⟩, by decide, by decide, reset_unbuilt⟩
theorem witness_InitConfiguresAndWritesModeOnce : ReadyForInit State.reset ∧ Config.thisHardware.wf = true :=
  ⟨readyForInit_reset, by decide⟩
theorem witness_ReqconvWritesControlThenWaits :
    Ready built ∧ State.reset.aborted = false ∧ State.reset.busy = false ∧ State.reset.inited = false :=
  ⟨ready_built, reset_unbuilt⟩
theorem witness_RdcjRequestsReadsAndDecodes :
    Ready (answering [0, 0x19, 0]) ∧ State.reset.aborted = false ∧ State.reset.busy = false ∧
    State.reset.inited = false := ⟨ready_answering _, reset_unbuilt⟩
theorem witness_RdtcRequestsReadsAndDecodes :
    Ready (answering [0x19, 0, 0, 0]) ∧ State.reset.aborted = false ∧ State.reset.busy = false ∧
    State.reset.inited = false := ⟨ready_answering _, reset_unbuilt⟩
theorem witness_EachReadMakesItsOwnConversion : Ready built := ready_built
theorem witness_FaultselReportsHighestSetBit : State.reset.config.faultTest = .bitset := by decide
theorem witness_ThermocoupleDecodeMonotonic :
    (tcRaw 0x7F 0xFF 0xFF).toNat ≤ (tcRaw 0x80 0 0).toNat ∧
    (tcRaw 0xFF 0xFF 0xE0).toNat / 32 = (tcRaw 0xFF 0xFF 0xFF).toNat / 32 := by decide
theorem witness_ThermocoupleLowBitsDiscarded : (0xE0 : Byte).toNat / 32 = (0xFF : Byte).toNat / 32 := by decide
theorem witness_ThermocoupleDecodeUnsigned :
    (0x80 : Byte).getLsbD 7 = true ∧ (0x7F : Byte).getLsbD 7 = false := by decide
theorem witness_AdmissionChecksInOrder :
    (built.aborted = false ∧ built.busy = false ∧ built.inited = true ∧ built.config.pins.distinct = true) ∧
    (State.reset.aborted = false ∧ State.reset.busy = false ∧ State.reset.inited = false) ∧
    PinMap.distinct ⟨8, 8, 10, 11⟩ = false ∧ 16 ≤ 16 ∧ 256 ≤ 256 ∧ 15 < 16 ∧
    decode (.cmd16 0xFFFF) = .error .reservedSelector :=
  ⟨by decide +kernel, reset_unbuilt, by decide, by decide, by decide, by decide, by rfl⟩
/-- A count above `MAX_COUNT`. -/
theorem witness_AdmissionChecksInOrder_bound : let s := { built with config := { built.config with maxCount := some 4 } }
    (s.aborted = false ∧ s.busy = false ∧ s.inited = true ∧ 15 < 16 ∧ s.config.maxCount = some 4 ∧ 4 < 5) ∧
    answerOf (exec (.rdregs 15 5) s) = some (.refused .badCount) := by decide +kernel
/-- A reserved word pending. -/
theorem witness_AdmissionChecksInOrder_reserved : let s := { State.reset with requests := [.word 0xFFFF, .word 0] }
    s.aborted = false ∧ s.busy = false ∧ s.seq = .idle ∧ s.probe = none ∧ s.requests = [.word 0xFFFF, .word 0] ∧
    decode (.cmd16 0xFFFF) = .error .reservedSelector := ⟨rfl, rfl, rfl, rfl, rfl, by rfl⟩
theorem witness_HostHasNoMoveWhileBusy :
    ({ built with busy := true } : State).aborted = false ∧ ({ built with busy := true } : State).busy = true ∧
    nextOf (exec .rdtc { built with busy := true }) = none := by decide +kernel
theorem witness_FaultErrorIsPrecise :
    Ready (answering [0x19, 0, 0, 1]) ∧ (answering [0x19, 0, 0, 1]).config.faultTest = .bitset ∧
    (answering [0x19, 0, 0, 1]).nextByte 3 ≠ 0 := ⟨ready_answering _, by decide +kernel, by decide +kernel⟩
theorem witness_OnlyRdtcAnswersAFaultKind :
    (Instr.rdregs 15 1 ≠ .rdtc ∧ answerOf (exec (.rdregs 15 1) (answering [0x81])) = some (.okBytes [0x81])) ∧
    Ready (answering [0x81]) ∧ ∀ m, (answering [0x81]).config.maxCount = some m → 1 ≤ m :=
  ⟨by decide +kernel, ready_answering _, by
    rw [show (answering [0x81]).config.maxCount = none by decide +kernel]
    simp⟩
theorem witness_FailedPrimitiveAborts :
    (let s := failing (List.replicate 50 false ++ [true])
     s.aborted = false ∧ s.busy = false ∧ s.config.portCanFail = true ∧ admission .reqconv s = none ∧
      (∀ j < 50, s.failsAt j = false) ∧ s.failsAt 50 = true ∧ 50 < (portsOf (programOf s.config .reqconv)).length) ∧
    ((failing [false, true]).aborted = false ∧
      (nextOf (exec .reqconv (failing [false, true]))).map State.aborted = some true) := by decide +kernel
theorem witness_AbortIsTerminal : broken.aborted = true := by decide +kernel
theorem witness_NoAbortOnThisHardware : ∃ t, (State.reset.withFetchWord 16 0).config.portCanFail = false ∧
    step (State.reset.withFetchWord 16 0) = .next t := by
  obtain ⟨t, h⟩ := next_of_some (o := step (State.reset.withFetchWord 16 0)) (by decide +kernel)
  exact ⟨t, rfl, h⟩
theorem witness_UnfailedRunIsTheSoundRun :
    (failing (List.replicate 60 false)).aborted = false ∧
    (nextOf (exec .reqconv (failing (List.replicate 60 false)))).map State.aborted = some false := by decide +kernel
theorem witness_StepKeepsTheIdleInvariant : IdleInv (built.withFetchWord 16 0x5000) ∧
    ∃ t, step (built.withFetchWord 16 0x5000) = .next t :=
  ⟨inv_built, next_of_some (by decide +kernel)⟩
theorem witness_StepKeepsTheLineDiscipline : IdleInv (built.withFetchWord 16 0x5000) ∧
    LineDiscipline (built.withFetchWord 16 0x5000) ∧ ∃ t, step (built.withFetchWord 16 0x5000) = .next t :=
  ⟨inv_built, lineDiscipline_built, next_of_some (by decide +kernel)⟩
/-- R25: INITED is set by INIT at its last event, before the response; after REQCONV's last event no
delay is left (R203, log 11). -/
theorem test_last_event :
    (let t := tick .init 56 { State.reset with seq := .running .init 56, busy := true }
     t.inited = true ∧ t.seq = .running .init 57 ∧ t.responses = []) ∧
    (let t := tick .init 55 { State.reset with seq := .running .init 55, busy := true }
     t.inited = false ∧ t.seq = .running .init 56) ∧
    (tick .reqconv 50 { built with seq := .running .reqconv 50, busy := true }).dly = some 0 := by decide +kernel
/-- Log 2, log 11: in RDCJ and RDTC the delay is gone with the event after the `Wait`. -/
theorem test_delay_inside_a_read : ∀ op ∈ [Instr.rdcj, .rdtc],
    let t := tick op 50 { built with seq := .running op 50, busy := true }
    t.trace.getLast? = some (.wait 200) ∧ t.seq = .running op 51 ∧ t.dly = some 200 ∧ (tick op 51 t).dly = some 0 := by
  decide +kernel
theorem witness_SequencerRunsTheOperation :
    (built.aborted = false ∧ built.busy = false ∧ built.config.portCanFail = false) ∧ admission .rdtc built = none ∧
    portsOf (programOf built.config .rdtc) ≠ [] := by decide +kernel
theorem witness_EventsAndClockCyclesPerOperation : ReadyForInit State.reset ∧ Ready built ∧
    ∀ i ∈ [Instr.sendbyte 0, .recvbyte, .wrreg 15 255, .rdregs 0 1, .reqconv, .rdcj, .rdtc], admission i built = none :=
  ⟨readyForInit_reset, ready_built, by decide +kernel⟩
theorem witness_AnswersNeverSteerTheEvents : ∃ t, exec .rdtc (answering [0x19, 0, 0, 0]) = .next t :=
  next_of_some (by decide +kernel)
theorem witness_OperationsReadNoEarlierRegister :
    admission .rdcj built = none ∧ portsOf (programOf built.config .rdcj) ≠ [] := by decide +kernel
theorem witness_ConfigurationAndInitedAreLasting : State.reset.inited = false ∧ built.inited = true ∧
    (nextOf (step (State.reset.withFetchWord 16 0))).map State.inited = some true ∧
    (∃ t, step (State.reset.withFetchWord 16 0) = .next t) ∧ ∃ t, step (built.accept .rdtc) = .next t :=
  ⟨by decide, by decide +kernel, by decide +kernel, next_of_some (by decide +kernel), next_of_some (by decide +kernel)⟩
theorem witness_OneResponsePerRequest : (State.reset.withFetchWord 16 0x7000).seq = .idle ∧
    (State.reset.withFetchWord 16 0x7000).probe = none ∧
    (State.reset.withFetchWord 16 0x7000).requests = [.word 0x7000] ∧
    ∃ t, step (State.reset.withFetchWord 16 0x7000) = .next t :=
  ⟨rfl, rfl, rfl, next_of_some (by decide +kernel)⟩
theorem witness_TraceOnlyGrows : ∃ t, step (State.reset.withFetchWord 16 0) = .next t :=
  next_of_some (by decide +kernel)
theorem witness_OnlyInitConfiguresPins :
    (Instr.rdtc ≠ .init ∧ ∃ t, exec .rdtc (answering [0x19, 0, 0, 0]) = .next t) ∧
    ((∃ t, step (built.withFetchWord 16 0x7000) = .next t) ∧ ¬ ServesInit (built.withFetchWord 16 0x7000)) := by
  refine ⟨⟨by decide, next_of_some (by decide +kernel)⟩, next_of_some (by decide +kernel), ?_⟩
  rintro (⟨k, h⟩ | ⟨_, _, r, rest, h, hi⟩)
  · exact absurd (show Seq.idle = .running .init k from h) (by simp)
  · obtain ⟨rfl, _⟩ := List.cons.inj (show Request.word 0x7000 :: _ = r :: rest from h)
    exact absurd (show Except.ok Instr.rdtc = Except.ok Instr.init from hi) (by simp)
theorem witness_FunctionsAreNoHostRequests :
    (Request.instr (.word 0x7000) = .ok .rdtc ∧ Request.instr (.call ⟨.wrreg 16 0, rfl⟩) = .ok (.wrreg 16 0)) ∧
    (State.reset.withFetchWord 16 0).probe = none ∧ ∃ t, step (State.reset.withFetchWord 16 0) = .next t :=
  ⟨⟨rfl, rfl⟩, rfl, next_of_some (by decide +kernel)⟩
theorem witness_InitOnlyOnce : ReadyForInit State.reset := readyForInit_reset
theorem witness_WrregReachesItsRegisterOnly : Ready built ∧ 15 < 16 ∧ 255 < 256 ∧
    ∃ t, exec (.wrreg 15 255) built = .next t :=
  ⟨ready_built, by decide, by decide, next_of_some (by decide +kernel)⟩
theorem witness_OtherOperationsReachTheirRegistersOnly :
    (Ready built ∧ ∃ t, exec (.sendbyte 0x8F) built = .next t) ∧
    (Ready built ∧ ∃ t, exec .reqconv built = .next t) ∧
    (ReadyForInit State.reset ∧ IdleInv State.reset ∧ ∃ t, exec .init State.reset = .next t) :=
  ⟨⟨ready_built, next_of_some (by decide +kernel)⟩, ⟨ready_built, next_of_some (by decide +kernel)⟩,
   readyForInit_reset, inv_reset, next_of_some (by decide +kernel)⟩
theorem witness_RemoteSpaceStaysCanonical : RemoteMemory.wf [(0, 0x42), (15, 0xFF)] = true ∧
    (0 : Address) ≠ 15 ∧ RemoteMemory.wf [(1, 3), (1, 4)] = false ∧ RemoteMemory.wf [(16, 0)] = false := by decide
theorem witness_RdregsUnderAutoIncrement :
    Ready (answering [0xE0, 0x81, 0x00]) ∧ 14 < 16 ∧ 0 < 3 ∧
    (∀ m, (answering [0xE0, 0x81, 0x00]).config.maxCount = some m → 3 ≤ m) ∧
    EnvAutoinc (fun a => if a = 14 then 0xE0 else 0x81) (BitVec.ofNat 4 14) 3 (answering [0xE0, 0x81, 0x00]) :=
  ⟨ready_answering _, by decide, by decide, by
    rw [show (answering [0xE0, 0x81, 0x00]).config.maxCount = none by decide +kernel]
    simp, by unfold EnvAutoinc; decide +kernel⟩
/-- A chip whose registers show some bytes once 200 ms have gone by, and 0 before. -/
def lateChip (regs : Address → Byte) (tr : List Event) (a : Address) : Byte := if 200 ≤ waitedMs tr then regs a else 0

/-- The thermocouple and cold-junction registers of the worked examples, with a fault byte. -/
def chipRegs (fault : Byte) (a : Address) : Byte := if a = 12 ∨ a = 10 then 0x19 else if a = 15 then fault else 0

theorem envConv_lateChip (regs : Address → Byte) : EnvConv (lateChip regs) fun _ => regs := by
  intro before since request _ _ hw a _
  simp only [lateChip, waitedMs_append]
  rw [if_pos (by omega)]

theorem witness_ReadsUnderChipPremises :
    (Ready (answering [0x19, 0, 0, 0x81]) ∧ (answering [0x19, 0, 0, 0x81]).config.faultTest = .bitset ∧
      200 ≤ (answering [0x19, 0, 0, 0x81]).config.convDelayMs) ∧
    EnvConv (lateChip (chipRegs 0x81)) (fun _ => chipRegs 0x81) ∧ faultSel .bitset (chipRegs 0x81 15) = some .cjRange ∧
    EnvAutoinc (lateChip (chipRegs 0x81) (built.trace ++ writeEvents 0 0x42 ++ [.wait built.config.convDelayMs])) 12 4
      (answering [0x19, 0, 0, 0x81]) ∧
    chipRegs 0 15 = 0 ∧
    EnvAutoinc (lateChip (chipRegs 0) (built.trace ++ writeEvents 0 0x42 ++ [.wait built.config.convDelayMs])) 12 4
      (answering [0x19, 0, 0, 0]) ∧
    EnvAutoinc (lateChip (chipRegs 0) (built.trace ++ writeEvents 0 0x42 ++ [.wait built.config.convDelayMs])) 9 3
      (answering [0, 0x19, 0]) :=
  ⟨⟨ready_answering _, by decide +kernel, by decide +kernel⟩, envConv_lateChip _, by decide,
   by unfold EnvAutoinc; decide +kernel, by decide, by unfold EnvAutoinc; decide +kernel,
   by unfold EnvAutoinc; decide +kernel⟩
/-- A block read of the last register after REQCONV. -/
theorem witness_ReadsUnderChipPremises_after_reqconv : let t := nextOr State.reset (exec .reqconv (answering [0x81]))
    9 ≤ 15 ∧ 0 < 1 ∧ 15 + 1 ≤ 16 ∧ (∀ m, (answering [0x81]).config.maxCount = some m → 1 ≤ m) ∧
    nextOf (exec .reqconv (answering [0x81])) = some t ∧
    EnvAutoinc (lateChip (chipRegs 0x81) t.trace) (BitVec.ofNat 4 15) 1 t :=
  ⟨by decide, by decide, by decide, by
    rw [show (answering [0x81]).config.maxCount = none by decide +kernel]
    simp, by decide +kernel, by unfold EnvAutoinc; decide +kernel⟩
/-- What may follow a request: reads and delays, not another write. -/
theorem test_onlyReads : OnlyReads ([.wait 200] ++ readEvents 15 [true]) ∧ waitedMs [.wait 150, .wait 50] = 200 :=
  ⟨.wait 200 (by simpa using OnlyReads.read 15 [true] .nil), rfl⟩
/-- A chip that shows a fault byte but where a transaction has just ended. -/
def clearedChip (tr : List Event) (a : Address) : Byte :=
  if a = 0 then 0x42 else if tr.getLast? = some (.drv .cs true) then 0 else 0x81

theorem envRequest_clearedChip : EnvRequest clearedChip := by
  intro before
  refine ⟨clearedChip (before ++ writeEvents Config.cr0Addr Config.cr0Value), ?_⟩
  have hcmd : (byteOfLevels ((drivesOf .mosi (writeEvents Config.cr0Addr Config.cr0Value)).take 8)).setWidth 4 = (0 : Address) ∧
      byteOfLevels ((drivesOf .mosi (writeEvents Config.cr0Addr Config.cr0Value)).drop 8) = 0x42 := by decide
  rw [EnvWrite, if_pos (by decide), hcmd.1, hcmd.2]
  refine ⟨rfl, fun _ _ => ?_, fun _ _ _ => rfl⟩
  rw [writeEvents, ← List.append_assoc, clearedChip, List.getLast?_concat]
  rfl

/-- The fault byte is there again once the conversion has run. -/
theorem witness_EachRequestClearsTheFaultStatus : Ready built ∧ EnvRequest clearedChip ∧
    clearedChip (built.trace ++ writeEvents 0 0x42 ++ [.wait 200]) 15 = 0x81 :=
  ⟨ready_built, envRequest_clearedChip, by simp [clearedChip]⟩
/-- Each clause of ENV_WRITE at register 0, and a read frame. -/
theorem witness_FramesUnderEnvWrite :
    (15 : Address) ≠ 0 ∧ (Function.update (chipRegs 0x81) 0 0x42) 15 = 0x81 ∧
    EnvWrite (chipRegs 0x81) (Function.update (chipRegs 0) 0 0x42) (drivesOf .mosi (writeEvents 0 0x42)) ∧
    ¬ EnvWrite (chipRegs 0x81) (Function.update (chipRegs 0x81) 0 0x42) (drivesOf .mosi (writeEvents 0 0x42)) ∧
    EnvWrite (chipRegs 0x81) (chipRegs 0x81) (drivesOf .mosi (readEvents 15 [true])) := by
  unfold EnvWrite RegisterWrite
  decide +kernel
theorem witness_StuckDataInIsNotDetected :
    (Ready (answering [0xFF, 0xFF, 0xFF, 0xFF]) ∧ (answering [0xFF, 0xFF, 0xFF, 0xFF]).config.faultTest = .bitset ∧
      ∀ i < 32, (answering [0xFF, 0xFF, 0xFF, 0xFF]).levelAt i = true) ∧
    (∀ i < 32, (answering [0, 0, 0, 0]).levelAt i = false) :=
  ⟨⟨ready_answering _, by decide +kernel, by decide +kernel⟩, by decide +kernel⟩
theorem witness_PadsBetweenOperations : IdleInv built ∧ built.inited = true ∧ built.aborted = false :=
  ⟨inv_built, by decide +kernel, by decide +kernel⟩
theorem witness_ResidualMosiLevel :
    (Ready (answering [0, 0x19, 0]) ∧ admission .rdcj (answering [0, 0x19, 0]) = none ∧
      ∃ t, exec .rdcj (answering [0, 0x19, 0]) = .next t) ∧
    (ReadyForInit State.reset ∧ ∃ t, exec .init State.reset = .next t) ∧
    some true ∈ (mosiAtEdges false none (readEvents 9 [true])).drop 8 :=
  ⟨⟨ready_answering _, by decide +kernel, next_of_some (by decide +kernel)⟩,
   ⟨readyForInit_reset, next_of_some (by decide +kernel)⟩, by decide⟩

end Sys2Proof.Tests
end

section
/-! SUPPORT. RDREGS as one equation over the state before it, the levels of the premise `ENV_AUTOINC` read as bytes, and what
follows for the bytes RDREGS answers (20_memory.md R59). -/

namespace Sys2Proof.Machine

/-- RDREGS on a ready block (R118): what it changes, everything else being that of the released state. -/
theorem exec_rdregs {s : State} {a n : Nat} (hs : Ready s) (ha : a < 16) (hn : 0 < n)
    (hmax : ∀ m, s.config.maxCount = some m → n ≤ m) :
    exec (.rdregs a n) s = .next { s.release with
      lvl := { cs := some true, clk := some false, mosi := some ((addressOf a).getLsbD 0) }
      trace := s.trace ++ readEvents (addressOf a) (s.levels (8 * n))
      answers := s.answers.drop (8 * n)
      samples := s.samples + 8 * n
      responses := s.responses ++ [.okBytes ((List.range n).map s.nextByte)] } := by
  obtain ⟨haborted, hbusy, hinited, hport⟩ := hs
  have hadmitted : admission (.rdregs a n) s = none := admission_rdregs.mpr ⟨hinited, ha, hn, hmax⟩
  obtain ⟨sr, bitcnt, hrun⟩ := run_rdregs (s := s.accept (.rdregs a n)) (by simpa using hport) (by simpa using haborted)
    (addressOf a) n
  rw [exec_operation rfl, performOp_admitted haborted hbusy hport hadmitted, programOf, hrun]
  rfl

/-- Eight levels that are the bits of a byte in wire order are received as that byte (R51, R116). -/
theorem nextByte_of_levelAt {s : State} {k : Nat} {v : Byte}
    (h : ∀ i < 8, s.levelAt (8 * k + i) = v.getLsbD (7 - i)) : s.nextByte k = v := by
  have hbits : (List.range 8).map (fun i => s.levelAt (8 * k + i)) = wireBits v := by
    calc (List.range 8).map (fun i => s.levelAt (8 * k + i))
        = (List.range 8).map (fun i => v.getLsbD (7 - i)) :=
          List.map_congr_left fun i hi => h i (List.mem_range.mp hi)
      _ = wireBits v := rfl
  rw [State.nextByte, hbits, byteOfLevels_wireBits]

/-- Under `ENV_AUTOINC` the `k`-th byte received is the content of register `start + k`, up to address 15 (R59). -/
theorem nextByte_of_envAutoinc {regs : Address → Byte} {start : Address} {n k : Nat} {s : State}
    (h : EnvAutoinc regs start n s) (hk : k < n) (hlast : start.toNat + k < 16) :
    s.nextByte k = regs (BitVec.ofNat 4 (start.toNat + k)) :=
  nextByte_of_levelAt (h k hk hlast)

/-- Settles O54: the bytes answered are the bytes received, and each of them is the register presented. -/
theorem rdregsUnderAutoIncrement : Obligations.RdregsUnderAutoIncrement := by
  intro regs s a n hs ha hn hmax henv
  refine ⟨_, (List.range n).map s.nextByte, exec_rdregs hs ha hn hmax, rfl, by simp, fun k hk hlast => ?_⟩
  have hstart : (BitVec.ofNat 4 a).toNat = a := Nat.mod_eq_of_lt ha
  have hbyte := nextByte_of_envAutoinc henv hk (by rwa [hstart])
  rw [hstart] at hbyte
  simp [hk, hbyte]

end Sys2Proof.Machine
end

section
/-! SUPPORT. The statements of 42_decoder.md: the thermocouple decode as a function of the 24-bit number, and the fault bits. -/

namespace Sys2Proof.Machine

/-! ### The thermocouple decode -/

/-- Settles O23: the decode is the quotient of the 24-bit number by 32. -/
theorem thermocoupleDecodeMonotonic : Obligations.ThermocoupleDecodeMonotonic := by
  constructor
  · intro h m l h' m' l' hle
    rw [toNat_decTc, toNat_decTc]
    exact Nat.div_le_div_right hle
  · intro h m l h' m' l' hblock
    apply BitVec.eq_of_toNat_eq
    rw [toNat_decTc, toNat_decTc, hblock]

/-- Bit 7 of a byte is set exactly from 128 on. -/
theorem getLsbD_seven_eq_decide (h : Byte) : h.getLsbD 7 = decide (128 ≤ h.toNat) :=
  h.msb_eq_getLsbD_last.symm.trans h.msb_eq_decide

/-- Setting bit 7 of a byte adds 128 to its other bits. -/
theorem toNat_or_bit_seven (h : Byte) : (h ||| 0x80).toNat = (h &&& 0x7F).toNat + 128 := by
  have hlow : (h &&& 0x7F).toNat = h.toNat % 2 ^ 7 := Nat.and_two_pow_sub_one_eq_mod h.toNat 7
  have hsame : (h ||| 0x80).toNat % 2 ^ 7 = h.toNat % 2 ^ 7 := by
    rw [BitVec.toNat_or, Nat.or_mod_two_pow]
    exact Nat.or_zero _
  have hset : (h ||| 0x80).getLsbD 7 = true := by
    rw [BitVec.getLsbD_or]
    exact Bool.or_true _
  rw [getLsbD_seven_eq_decide, decide_eq_true_iff] at hset
  omega

/-- Q lies on or above `2^18` exactly where bit 23 of the raw value, bit 7 of `high`, is set (R163). -/
theorem le_decTc_iff_bit_set (h m l : Byte) : 2 ^ 18 ≤ (decTc h m l).toNat ↔ h.getLsbD 7 = true := by
  rw [toNat_decTc, toNat_tcRaw, getLsbD_seven_eq_decide, decide_eq_true_iff]
  omega

/-- Bit 23 of the raw value has weight `2^18` in Q (R163). -/
theorem toNat_decTc_or_bit_seven (h m l : Byte) :
    (decTc (h ||| 0x80) m l).toNat = (decTc (h &&& 0x7F) m l).toNat + 2 ^ 18 := by
  rw [toNat_decTc, toNat_decTc, toNat_tcRaw, toNat_tcRaw, toNat_or_bit_seven]
  omega

/-- A degree is 128 steps of Q (R161). -/
theorem tcCelsius_eq_div (q : BitVec 19) : tcCelsius q = q.toNat / 128 := by
  rw [tcCelsius, Config.tcScale]
  ring

theorem tcCelsius_nonneg (q : BitVec 19) : 0 ≤ tcCelsius q := by
  rw [tcCelsius_eq_div]
  positivity

theorem le_tcCelsius_of_le_toNat {q : BitVec 19} (hq : 2 ^ 18 ≤ q.toNat) : 2048 ≤ tcCelsius q := by
  have hq' : (2 ^ 18 : Rat) ≤ q.toNat := by exact_mod_cast hq
  rw [tcCelsius_eq_div]
  linarith

/-- Settles O25: the shift is logical, so bit 23 only ever adds to Q. -/
theorem thermocoupleDecodeUnsigned : Obligations.ThermocoupleDecodeUnsigned := by
  refine ⟨fun h m l hset => ?_, fun h m l hclear => ?_, toNat_decTc_or_bit_seven, tcCelsius_nonneg, by decide, ?_⟩
  · have hq : 2 ^ 18 ≤ (decTc h m l).toNat := (le_decTc_iff_bit_set h m l).mpr hset
    exact ⟨hq, le_tcCelsius_of_le_toNat hq⟩
  · exact Nat.lt_of_not_le fun hle => Bool.false_ne_true (hclear.symm.trans ((le_decTc_iff_bit_set h m l).mp hle))
  · rw [tcCelsius_eq_div, show (524287 : BitVec 19).toNat = 524287 by rfl]
    norm_num

/-! ### The fault bits -/

/-- The mask of a kind is the single bit of its index (R174). -/
theorem faultMask_eq_twoPow (k : FaultKind) : faultMask k = BitVec.twoPow 8 (faultBit k) := by
  cases k <;> decide

/-- The bit-set test of a kind's mask is that kind's bit (R173). -/
theorem faultTest_bitset_faultMask (k : FaultKind) (f : Byte) :
    faultTest .bitset f (faultMask k) = f.getLsbD (faultBit k) := by
  have hmask : BitVec.twoPow 8 (faultBit k) ≠ 0 := by cases k <;> decide
  rw [faultTest, faultMask_eq_twoPow, BitVec.and_twoPow]
  cases f.getLsbD (faultBit k) with
  | true => simpa using hmask
  | false => rfl

/-- The rejected test is passed by the kind of bit 0 alone: no other mask leaves a 1 (R173). -/
theorem faultTest_equalsOne_faultMask (k : FaultKind) (f : Byte) :
    faultTest .equalsOne f (faultMask k) = (k == .openCircuit && f.getLsbD 0) := by
  rw [faultTest, faultMask_eq_twoPow, BitVec.and_twoPow]
  cases k with
  | openCircuit => rw [faultBit]; cases f.getLsbD 0 <;> rfl
  | _ => split <;> rfl

/-- FAULTSEL under the rejected test (R173). -/
theorem faultSel_equalsOne (f : Byte) : faultSel .equalsOne f = if f.getLsbD 0 then some .openCircuit else none := by
  simp only [faultSel, faultTest_equalsOne_faultMask]
  cases f.getLsbD 0 <;> rfl

/-- Settles O20: a mask has one bit, which the bit-set test reads and the rejected test sees for bit 0 only. -/
theorem faultTestReadings : Obligations.FaultTestReadings :=
  ⟨rfl, fun _ _ => bne_iff_ne, faultTest_bitset_faultMask, faultSel_equalsOne, faultSel_equalsOne 0x81,
    faultSel_equalsOne 0x80⟩

/-- The kind whose bit has the index: bit 0 for an index past 7. -/
def kindOfBit : Nat → FaultKind
  | 7 => .cjRange
  | 6 => .tcRange
  | 5 => .cjHigh
  | 4 => .cjLow
  | 3 => .tcHigh
  | 2 => .tcLow
  | 1 => .ovuv
  | _ => .openCircuit

theorem kindOfBit_faultBit (k : FaultKind) : kindOfBit (faultBit k) = k := by
  cases k <;> rfl

theorem faultBit_kindOfBit : ∀ j < 8, faultBit (kindOfBit j) = j := by
  decide

/-- Settles O22: kinds and the indexes 0 to 7 are each other's inverse images; the table is the model's, row by row. -/
theorem faultKindsCarryMaskAndName : Obligations.FaultKindsCarryMaskAndName := by
  refine ⟨faultMask_eq_twoPow, fun j hj => ⟨kindOfBit j, faultBit_kindOfBit j hj, fun k hk => ?_⟩, rfl⟩
  rw [← hk, kindOfBit_faultBit]

end Sys2Proof.Machine
end

section
/-! SUPPORT. The statements of 30_encoding.md: a word and the instruction it spells. -/

namespace Sys2Proof

/-- An instruction that has a word decodes from it, one lemma of the family Spelling for each instruction. -/
theorem decode_encodeWord {i : Instr} (h : i.spelled = true) : decode (encodeWord i) = .ok i := by
  cases i with
  | init => exact Laws.Spelling.init h
  | sendbyte v => exact Laws.Spelling.sendbyte v h
  | recvbyte => exact Laws.Spelling.recvbyte h
  | wrreg a v => exact Laws.Spelling.wrreg a v h
  | rdregs a n => exact Laws.Spelling.rdregs a n h
  | reqconv => exact Laws.Spelling.reqconv h
  | rdcj => exact Laws.Spelling.rdcj h
  | rdtc => exact Laws.Spelling.rdtc h
  | dectc high mid low => exact Laws.Spelling.dectc high mid low h
  | deccj offset msb lsb => exact Laws.Spelling.deccj offset msb lsb h
  | faultsel f => exact Laws.Spelling.faultsel f h

/-- Settles O1: the encoder gives the word of every instruction that has one. -/
theorem decodeOfEncodeIsTheInstruction : Obligations.DecodeOfEncodeIsTheInstruction :=
  fun i h => ⟨encodeWord i, if_pos h, decode_encodeWord h⟩

theorem decodePlain_cmdWord (op a : BitVec 4) (d : BitVec 8) (i : Instr) :
    decodePlain (cmdWord op a d) i = if a = 0 ∧ d = 0 then .ok i else .error .reservedField := by
  rw [decodePlain, cmdA_cmdWord, cmdD_cmdWord]

/-- A word of an operation without operands decodes with both fields zero only (R99). -/
theorem decodePlain_cmdWord_eq_ok {op a : BitVec 4} {d : BitVec 8} {i j : Instr}
    (h : decodePlain (cmdWord op a d) i = .ok j) : a = 0 ∧ d = 0 ∧ i = j := by
  rw [decodePlain_cmdWord] at h
  split at h
  next hz => exact ⟨hz.1, hz.2, Except.ok.inj h⟩
  next => cases h

theorem decodePlain_cmdWord_isError_iff (op a : BitVec 4) (d : BitVec 8) (i : Instr) :
    (∃ e, decodePlain (cmdWord op a d) i = .error e) ↔ ¬(a = 0 ∧ d = 0) := by
  rw [decodePlain_cmdWord]
  split
  next hz => exact iff_of_false (fun ⟨_, he⟩ => nomatch he) (not_not_intro hz)
  next hz => exact iff_of_true ⟨_, rfl⟩ hz

/-- A word that decodes is, field by field, the word its instruction is encoded in (R98). -/
theorem encode_of_decode_cmdWord {op a : BitVec 4} {d : BitVec 8} {i : Instr}
    (h : decode (.cmd16 (cmdWord op a d)) = .ok i) : encode i = some (.cmd16 (cmdWord op a d)) := by
  have hop : ∀ {n : Nat}, op.toNat = n → op = BitVec.ofNat 4 n := fun hn =>
    hn ▸ (BitVec.ofNat_toNat 4 op).symm
  simp only [decode, decodeCmd16, cmdOp_cmdWord, cmdA_cmdWord, cmdD_cmdWord] at h
  split at h
  case h_1 hn | h_3 hn | h_6 hn | h_7 hn | h_8 hn =>
    obtain ⟨rfl, rfl, rfl⟩ := decodePlain_cmdWord_eq_ok h
    rw [hop hn]
    rfl
  case h_2 hn =>
    split at h
    next ha =>
      cases h
      simp [encode, encodeWord, Instr.spelled, valueOk, d.isLt, hop hn, ha]
    next => cases h
  case h_4 hn | h_5 hn =>
    cases h
    simp [encode, encodeWord, Instr.spelled, addressOk, valueOk, a.isLt, d.isLt, hop hn]
  case h_9 => cases h

/-- Settles O2: a word is its three fields. -/
theorem encodeOfDecodedCommandWord : Obligations.EncodeOfDecodedCommandWord := by
  intro w i h
  rw [← cmdWord_fields w] at h ⊢
  exact encode_of_decode_cmdWord h

/-- Settles O3, selector by selector. -/
theorem reservedCommandWords : Obligations.ReservedCommandWords := by
  intro op a d
  rw [show op ++ a ++ d = cmdWord op a d from rfl]
  simp only [decode, decodeCmd16, cmdOp_cmdWord, cmdA_cmdWord, cmdD_cmdWord]
  split
  case h_1 hn | h_3 hn | h_6 hn | h_7 hn | h_8 hn =>
    rw [decodePlain_cmdWord_isError_iff]
    simp [hn]
  case h_2 hn =>
    split
    next ha => simp [hn, ha]
    next ha => exact iff_of_true ⟨_, rfl⟩ (.inr (.inr ⟨hn, ha⟩))
  case h_4 hn | h_5 hn => simp [hn]
  case h_9 h0 h1 h2 h3 h4 h5 h6 h7 =>
    have hge : 8 ≤ op.toNat := by
      by_contra hlt
      have : op.toNat < 8 := by omega
      interval_cases op.toNat <;> simp_all
    simp [hge]

/-- Settles O4: the decoder run on each word. -/
theorem specWordsDecode : Obligations.SpecWordsDecode := by
  unfold Obligations.SpecWordsDecode
  decide

end Sys2Proof
end

section
/-! SUPPORT. The statements of 42_decoder.md on each triple of bytes: the decodes as shifts of joined bytes, the ranges,
the Celsius formulas, and the fault selector as the highest set bit. -/

namespace Sys2Proof.Machine

/-! ### Bytes joined by shifts -/

/-- `{high, mid, low}` as the document joins it (R160). -/
theorem toNat_tcRaw_eq_shifts (h m l : Byte) :
    (tcRaw h m l).toNat = (h.toNat <<< 16) ||| (m.toNat <<< 8) ||| l.toNat := by
  rw [tcRaw, BitVec.toNat_append, BitVec.toNat_append, Nat.shiftLeft_or_distrib, ← Nat.shiftLeft_add]

/-- `{msb, lsb}` as the document joins it (R166). -/
theorem toNat_cjRaw_eq_shifts (m l : Byte) : (cjRaw m l).toNat = (m.toNat <<< 8) ||| l.toNat :=
  (toNat_cjRaw m l).trans ((toNat_append_eq m l).symm.trans (BitVec.toNat_append m l))

/-- DECTC as the document writes it (R161). -/
theorem toNat_decTc_eq_shifts (h m l : Byte) :
    (decTc h m l).toNat = ((h.toNat <<< 16) ||| (m.toNat <<< 8) ||| l.toNat) >>> 5 := by
  rw [toNat_decTc, ← toNat_tcRaw_eq_shifts, Nat.shiftRight_eq_div_pow]

/-- DECCJ as the document writes it (R169). -/
theorem toNat_decCj_eq_shifts (o m l : Byte) :
    (decCj o m l).toNat = o.toNat + (((m.toNat <<< 8) ||| l.toNat) >>> 2) := by
  rw [toNat_decCj, ← toNat_cjRaw_eq_shifts, Nat.shiftRight_eq_div_pow]

/-- Q's 15 bits fit the 19-bit register (R21). -/
theorem toNat_setWidth_cj (q : BitVec 15) : (q.setWidth 19).toNat = q.toNat :=
  BitVec.toNat_setWidth_of_le (by decide)

/-! ### The two decodes -/

/-- Settles O17: DECTC is `execDectc`, and its Q the quotient of the joined bytes by 32. -/
theorem dectcDecodesEveryTriple : Obligations.DectcDecodesEveryTriple := fun h m l _ =>
  ⟨tcRaw h m l, decTc h m l, rfl, toNat_tcRaw h m l, toNat_decTc_eq_shifts h m l, toNat_decTc h m l⟩

/-- Settles O18: DECCJ is `execDeccj`, and its Q the offset and the quotient of the joined bytes by 4. -/
theorem deccjDecodesEveryTriple : Obligations.DeccjDecodesEveryTriple := fun o m l _ =>
  ⟨cjRaw m l, decCj o m l, rfl, toNat_cjRaw m l, toNat_decCj_eq_shifts o m l, toNat_setWidth_cj _⟩

/-- Settles O24: Q is the quotient by 32, whose remainder is what the low five bits say. -/
theorem thermocoupleLowBitsDiscarded : Obligations.ThermocoupleLowBitsDiscarded := by
  constructor
  · intro h m l l' hsame
    refine thermocoupleDecodeMonotonic.2 h m l h m l' ?_
    rw [toNat_tcRaw, toNat_tcRaw]
    omega
  · intro h m l
    rw [toNat_decTc]
    omega

/-- Settles O26: `{msb, lsb}` has 16 bits, so its quotient by 4 has 14. -/
theorem coldJunctionRange : Obligations.ColdJunctionRange := by
  intro o m l
  have hraw := toNat_cjRaw m l
  have hzero : o = 0 ↔ o.toNat = 0 := ⟨fun h => by rw [h]; rfl, fun h => BitVec.eq_of_toNat_eq h⟩
  have := o.isLt
  have := m.isLt
  have := l.isLt
  rw [toNat_decCj, hzero]
  omega

/-- A degree is 64 steps of Q (R169). -/
theorem cjCelsius_eq_div (q : BitVec 15) : cjCelsius q = q.toNat / 64 := by
  rw [cjCelsius, Config.cjScale]
  ring

/-- Settles O27: Q is the shift of the joined bytes, and the scale is a power of two. -/
theorem celsiusIsTheDocumentsFormula : Obligations.CelsiusIsTheDocumentsFormula := by
  refine ⟨fun h m l => ?_, fun o m l => ?_, tcCelsius_eq_div, cjCelsius_eq_div, ?_⟩
  · rw [tcCelsius, toNat_decTc_eq_shifts, Config.tcScale]
  · rw [cjCelsius, toNat_decCj_eq_shifts, Config.cjScale]
  · rw [tcCelsius_eq_div, show (decTc 0x19 0 0).toNat = 51200 by rfl]
    norm_num

/-! ### The fault selector -/

/-- In a list that falls strictly, the first element that passes a test is the one above which none passes. -/
theorem find?_eq_some_iff_of_falling {α : Type} {key : α → Nat} {test : α → Bool} {k : α} {l : List α}
    (hl : l.Pairwise fun x y => key y < key x) :
    l.find? test = some k ↔ k ∈ l ∧ test k = true ∧ ∀ x ∈ l, key k < key x → test x = false := by
  induction l with
  | nil => simp
  | cons x xs ih =>
    obtain ⟨hx, hxs⟩ := List.pairwise_cons.mp hl
    cases ht : test x with
    | true =>
      rw [List.find?_cons_of_pos ht, Option.some.injEq]
      constructor
      · rintro rfl
        refine ⟨List.mem_cons_self, ht, fun y hy hlt => ?_⟩
        rcases List.mem_cons.mp hy with rfl | hy
        · exact absurd hlt (Nat.lt_irrefl _)
        · exact absurd hlt (Nat.lt_asymm (hx y hy))
      · rintro ⟨hk, -, habove⟩
        rcases List.mem_cons.mp hk with rfl | hk
        · rfl
        · exact absurd (habove x List.mem_cons_self (hx k hk)) (by simp [ht])
    | false =>
      rw [List.find?_cons_of_neg (by simp [ht]), ih hxs]
      constructor
      · rintro ⟨hk, hpass, habove⟩
        exact ⟨List.mem_cons_of_mem _ hk, hpass, List.forall_mem_cons.mpr ⟨fun _ => ht, habove⟩⟩
      · rintro ⟨hk, hpass, habove⟩
        rcases List.mem_cons.mp hk with rfl | hk
        · exact absurd hpass (by simp [ht])
        · exact ⟨hk, hpass, (List.forall_mem_cons.mp habove).2⟩

/-- The kinds are tested from bit 7 down (R172). -/
theorem faultPriority_falling : faultPriority.Pairwise fun j k => faultBit k < faultBit j := by
  decide

theorem mem_faultPriority (k : FaultKind) : k ∈ faultPriority := by
  cases k <;> decide

/-- FAULTSEL with the bit-set test finds the first kind whose bit is set (R172, R173). -/
theorem faultSel_bitset (f : Byte) : faultSel .bitset f = faultPriority.find? fun k => f.getLsbD (faultBit k) := by
  simp only [faultSel, faultTest_bitset_faultMask]

/-- FAULTSEL's kind is that of the highest set bit (R172). -/
theorem faultSel_bitset_eq_some_iff (f : Byte) (k : FaultKind) : faultSel .bitset f = some k ↔
    f.getLsbD (faultBit k) = true ∧ ∀ j, faultBit k < j → f.getLsbD j = false := by
  rw [faultSel_bitset, find?_eq_some_iff_of_falling faultPriority_falling]
  constructor
  · rintro ⟨-, hset, habove⟩
    refine ⟨hset, fun j hj => ?_⟩
    rcases Nat.lt_or_ge j 8 with hj8 | hj8
    · have := habove (kindOfBit j) (mem_faultPriority _)
      rw [faultBit_kindOfBit j hj8] at this
      exact this hj
    · exact BitVec.getLsbD_of_ge f j hj8
  · rintro ⟨hset, habove⟩
    exact ⟨mem_faultPriority k, hset, fun x _ hx => habove _ hx⟩

/-- FAULTSEL reports nothing for the fault byte 0 only (R172). -/
theorem faultSel_bitset_eq_none_iff (f : Byte) : faultSel .bitset f = none ↔ f = 0 := by
  rw [faultSel_bitset, List.find?_eq_none]
  constructor
  · intro hclear
    apply BitVec.eq_of_getLsbD_eq
    intro j hj
    have := hclear (kindOfBit j) (mem_faultPriority _)
    rw [faultBit_kindOfBit j hj] at this
    simpa using this
  · rintro rfl
    simp

/-- Settles O19: the kinds are tested from the highest bit down. -/
theorem faultselReportsHighestSetBit : Obligations.FaultselReportsHighestSetBit := by
  refine ⟨fun f s hbitset => ⟨faultSel .bitset f, ?_, faultSel_bitset_eq_none_iff f, faultSel_bitset_eq_some_iff f⟩,
    by decide, by decide⟩
  rw [← hbitset]
  rfl

/-- Settles O21: the 256 bytes one by one. -/
theorem faultByteRowsPartition : Obligations.FaultByteRowsPartition := by
  unfold Obligations.FaultByteRowsPartition
  decide +kernel

end Sys2Proof.Machine
end

section
/-! SUPPORT. Every operation as one equation over the state before it, where the port does not fail, and its
refusals. -/

namespace Sys2Proof.Machine

/-! ### An operation between admission and response -/

/-- A request that an admission check fails is refused (R95, R96). -/
theorem exec_refused {i : Instr} {s : State} {why : RefuseReason} (hop : i.isOperation = true) (ha : s.aborted = false)
    (hb : s.busy = false) (hc : admission i s = some why) : exec i s = .next (s.refuse why) := by
  rw [exec_operation hop, performOp_refused ha hb hc]

/-- An admitted request is run to its ending, where the port does not fail. -/
theorem exec_admitted {i : Instr} {s : State} (hop : i.isOperation = true) (ha : s.aborted = false)
    (hb : s.busy = false) (hf : s.config.portCanFail = false) (hc : admission i s = none) :
    exec i s = .next (endingOf i (runProgram (programOf s.config i) (s.accept i))) := by
  rw [exec_operation hop, performOp_admitted ha hb hf hc]

/-- Before INIT every operation but INIT is refused, whatever its operands (R95). -/
theorem admission_not_inited {i : Instr} {s : State} (hop : i.isOperation = true) (hinit : i ≠ .init)
    (hn : s.inited = false) : admission i s = some .notInited := by
  cases i with
  | init => exact absurd rfl hinit
  | dectc _ _ _ | deccj _ _ _ | faultsel _ => cases hop
  | _ => simp [admission, hn]

theorem exec_not_inited {i : Instr} {s : State} (hop : i.isOperation = true) (hinit : i ≠ .init)
    (ha : s.aborted = false) (hb : s.busy = false) (hn : s.inited = false) :
    exec i s = .next { s with responses := s.responses ++ [.refused .notInited] } :=
  exec_refused hop ha hb (admission_not_inited hop hinit hn)

/-- INIT is not admitted once it has completed (R143). -/
theorem ne_init_of_admission {i : Instr} {s : State} (hc : admission i s = none) (hinited : s.inited = true) :
    i ≠ .init := by
  rintro rfl
  rw [(admission_init.mp hc).2] at hinited
  cases hinited

/-! ### What an operation of a constructed block leaves -/

/-- The levels an operation leaves (R26, R120). -/
def levelsAfter : Instr → Lvls → Lvls
  | .sendbyte v, l => { l with clk := some false, mosi := some ((valueOf v).getLsbD 0) }
  | .recvbyte, l => { l with clk := some false }
  | .wrreg _ v, _ => { cs := some true, clk := some false, mosi := some ((valueOf v).getLsbD 0) }
  | .rdregs a _, _ => { cs := some true, clk := some false, mosi := some ((addressOf a).getLsbD 0) }
  | .reqconv, _ => { cs := some true, clk := some false, mosi := some false }
  | .rdcj, _ => { cs := some true, clk := some false, mosi := some true }
  | .rdtc, _ => { cs := some true, clk := some false, mosi := some false }
  | _, l => l

/-- The levels an operation samples (R123). -/
def samplesIn : Instr → Nat
  | .recvbyte => 8
  | .rdregs _ n => 8 * n
  | .rdcj => 24
  | .rdtc => 32
  | _ => 0

/-- The events of an operation, with the levels that the environment of `s` answers (R115 to R118, R144 to R146). -/
def eventsOf (s : State) : Instr → List Event
  | .sendbyte v => sendEvents (valueOf v)
  | .recvbyte => recvEvents (s.levels 8)
  | .wrreg a v => writeEvents (addressOf a) (valueOf v)
  | .rdregs a n => readEvents (addressOf a) (s.levels (8 * n))
  | .reqconv => reqconvEvents s.config
  | .rdcj => reqconvEvents s.config ++ readEvents Config.cjAddr (s.levels 24)
  | .rdtc => reqconvEvents s.config ++ readEvents Config.tcAddr (s.levels 32)
  | _ => []

/-- What RDTC answers for a decoded temperature and a fault byte (R146). -/
def tcResponse (test : FaultTest) (q : BitVec 19) (fault : Byte) : Response :=
  match faultSel test fault with
  | some k => .fault k
  | none => .okTc q

theorem tcResponse_of_fault {test : FaultTest} {fault : Byte} {k : FaultKind} (h : faultSel test fault = some k)
    (q : BitVec 19) : tcResponse test q fault = .fault k := by
  rw [tcResponse, h]

theorem tcResponse_of_no_fault {test : FaultTest} {fault : Byte} (h : faultSel test fault = none) (q : BitVec 19) :
    tcResponse test q fault = .okTc q := by
  rw [tcResponse, h]

/-- What an operation answers, from the bytes that the environment of `s` sends (R93). -/
def responseOf (s : State) : Instr → Response
  | .recvbyte => .okByte (s.nextByte 0)
  | .rdregs _ n => .okBytes ((List.range n).map s.nextByte)
  | .rdcj => .okCj (decCj (s.nextByte 0) (s.nextByte 1) (s.nextByte 2))
  | .rdtc => tcResponse s.config.faultTest (decTc (s.nextByte 0) (s.nextByte 1) (s.nextByte 2)) (s.nextByte 3)
  | _ => .done

/-- The 15 bits of Q are read back from the 19-bit register (R21, R145). -/
theorem setWidth_setWidth_cj (q : BitVec 15) : (q.setWidth 19).setWidth 15 = q := by
  rw [BitVec.setWidth_setWidth_of_le _ (by decide), BitVec.setWidth_eq]

/-- RDCJ's ending where DECCJ has written Q. -/
theorem endRdcj_of_q {s : State} {q : BitVec 15} (hq : s.q = some (q.setWidth 19)) :
    endRdcj s = s.respond (.okCj q) := by
  simp only [endRdcj, hq, setWidth_setWidth_cj]

/-- RDTC's ending where Q and FLT have been written. -/
theorem endRdtc_of_q_flt {s : State} {q : BitVec 19} {f : Byte} (hq : s.q = some q) (hflt : s.flt = some f) :
    endRdtc s = s.respond (tcResponse s.config.faultTest q f) := by
  simp only [endRdtc, hq, hflt]
  split
  next k hk => rw [tcResponse_of_fault hk, State.takeFaultError]
  next hk => rw [tcResponse_of_no_fault hk]

/-- An admitted operation of a constructed block: everything it changes over the released state. -/
theorem exec_ready {i : Instr} {s : State} (hs : Ready s) (hop : i.isOperation = true) (hc : admission i s = none) :
    exec i s = .next { s.release with
      lvl := levelsAfter i s.lvl
      trace := s.trace ++ eventsOf s i
      answers := s.answers.drop (samplesIn i)
      samples := s.samples + samplesIn i
      responses := s.responses ++ [responseOf s i] } := by
  obtain ⟨ha, hb, hinited, hf⟩ := hs
  have ha' : (s.accept i).aborted = false := ha
  have hf' : (s.accept i).config.portCanFail = false := hf
  rw [exec_admitted hop ha hb hf hc]
  cases i with
  | init => exact absurd rfl (ne_init_of_admission hc hinited)
  | sendbyte v => rw [programOf, run_sendByte hf' ha']; rfl
  | recvbyte => rw [programOf, run_recvByte hf' ha']; rfl
  | wrreg a v => rw [programOf, run_wrreg hf' ha']; rfl
  | rdregs a n =>
    obtain ⟨-, hadr, hn, hmax⟩ := admission_rdregs.mp hc
    rw [← exec_admitted hop ha hb hf hc]
    exact exec_rdregs ⟨ha, hb, hinited, hf⟩ hadr hn hmax
  | reqconv => rw [programOf, ← State.accept_config, run_reqconv hf' ha']; rfl
  | rdcj =>
    obtain ⟨sr, bitcnt, hrun⟩ := run_rdcj hf' ha' rfl
    rw [programOf, ← State.accept_config, hrun, endingOf, endRdcj_of_q rfl]
    rfl
  | rdtc =>
    obtain ⟨sr, bitcnt, hrun⟩ := run_rdtc hf' ha' rfl
    rw [programOf, ← State.accept_config, hrun, endingOf, endRdtc_of_q_flt rfl rfl]
    rfl
  | dectc _ _ _ | deccj _ _ _ | faultsel _ => cases hop

/-! ### Operands in their types -/

theorem valueOf_bit_zero (v : Nat) : (valueOf v).getLsbD 0 = v.testBit 0 := by
  rw [valueOf, BitVec.getLsbD_ofNat]
  rfl

theorem addressOf_bit_zero (a : Nat) : (addressOf a).getLsbD 0 = a.testBit 0 := by
  rw [addressOf, BitVec.getLsbD_ofNat]
  rfl

/-- The read command is the address itself (R82). -/
theorem readCommand_addressOf {a : Nat} (ha : a < 16) : readCommand (addressOf a) = BitVec.ofNat 8 a := by
  apply BitVec.eq_of_toNat_eq
  simp only [readCommand, addressOf, BitVec.toNat_setWidth, BitVec.toNat_ofNat]
  omega

/-- The write command is the address with the write flag (R82). -/
theorem writeCommand_addressOf {a : Nat} (ha : a < 16) : writeCommand (addressOf a) = 0x80 ||| BitVec.ofNat 8 a :=
  congrArg (Config.writeFlag ||| ·) (readCommand_addressOf ha)

/-- The receive cells of the next samples (R80). -/
theorem recvEvents_levels (s : State) (n : Nat) : recvEvents (s.levels n) =
    (List.range n).flatMap fun i => [.drv .clk true, .smp (s.levelAt i), .drv .clk false] := by
  rw [recvEvents, State.levels, List.flatMap_map]
  rfl

/-- The byte of the next eight samples, first level first (R116). -/
theorem toNat_nextByte_zero (s : State) : (s.nextByte 0).toNat =
    (s.levelAt 0).toNat * 128 + (s.levelAt 1).toNat * 64 + (s.levelAt 2).toNat * 32 + (s.levelAt 3).toNat * 16 +
      (s.levelAt 4).toNat * 8 + (s.levelAt 5).toNat * 4 + (s.levelAt 6).toNat * 2 + (s.levelAt 7).toNat := by
  rw [nextByte_zero]
  exact toNat_byteOfLevels _ _ _ _ _ _ _ _

/-! ### The channel operations -/

/-- Settles O8: SENDBYTE's program (R115) run from admission to response. -/
theorem sendbyteShiftsMsbFirst : Obligations.SendbyteShiftsMsbFirst := by
  refine ⟨fun s v hs hv => ?_, fun v => ⟨rfl, rfl⟩, fun s v hs _ => ?_, fun s v => exec_not_inited rfl (by simp)⟩
  · obtain ⟨-, -, hinited, -⟩ := id hs
    rw [exec_ready hs rfl (admission_sendbyte.mpr ⟨hinited, hv⟩), levelsAfter, valueOf_bit_zero]
    rfl
  · obtain ⟨ha, -, -, hf⟩ := hs
    rw [programOf, run_sendByte (s := s.accept _) hf ha]

/-- Settles O9: RECVBYTE's program (R116) run from admission to response. -/
theorem recvbyteBuildsTheByteMsbFirst : Obligations.RecvbyteBuildsTheByteMsbFirst := by
  refine ⟨fun s hs => ⟨s.nextByte 0, ?_, toNat_nextByte_zero s⟩, fun s hs => ?_,
    fun s => exec_not_inited rfl (by simp)⟩
  · obtain ⟨-, -, hinited, -⟩ := id hs
    rw [exec_ready hs rfl ((admission_plain (by simp)).mpr hinited), ← recvEvents_levels]
    rfl
  · obtain ⟨ha, -, -, hf⟩ := hs
    rw [programOf, run_recvByte (s := s.accept _) hf ha, nextByte_zero]
    exact ⟨rfl, rfl⟩

/-- Settles O10: WRREG's program (R117) run from admission to response. -/
theorem wrregSendsCommandThenValue : Obligations.WrregSendsCommandThenValue := by
  refine ⟨fun s a v hs ha hv => ?_, fun s a v => exec_not_inited rfl (by simp)⟩
  obtain ⟨-, -, hinited, -⟩ := id hs
  rw [exec_ready hs rfl (admission_wrreg.mpr ⟨hinited, ha, hv⟩), levelsAfter, valueOf_bit_zero,
    ← writeCommand_addressOf ha]
  rfl

/-- RDREGS's lines before its receive loop (R118). -/
def readPreamble (a : Address) (n : Nat) : List Micro :=
  [.port (.drv .cs false)] ++ sendByteProgram (readCommand a) ++ [.setBytecnt n]

/-- RDREGS cut after `k` of its bytes. -/
theorem rdregsProgram_cut (a : Address) {k n : Nat} (hk : k ≤ n) : rdregsProgram a n =
    (readPreamble a n ++ recvBytesProgram k) ++ (recvBytesProgram (n - k) ++ [.port (.drv .cs true)]) := by
  rw [rdregsProgram, readPreamble, show recvBytesProgram n = recvBytesProgram k ++ recvBytesProgram (n - k) by
    rw [← recvBytesProgram_add, Nat.add_sub_cancel' hk]]
  simp only [List.append_assoc]

/-- The command byte of RDREGS: 25 events, BYTECNT loaded, nothing received yet (R118). -/
theorem run_readPreamble {s : State} (hf : s.config.portCanFail = false) (ha : s.aborted = false) (a : Address)
    (n : Nat) :
    runProgram (readPreamble a n) s =
      { s with
        bitcnt := some 0
        bytecnt := some n
        lvl := { cs := some false, clk := some false, mosi := some ((readCommand a).getLsbD 0) }
        trace := s.trace ++ [.drv .cs false] ++ sendEvents (readCommand a)
        seq := seqAfter (seqAfter s.seq 1) 24 } := by
  rw [readPreamble, runProgram_append hf ha, runProgram_append hf ha, run_drive hf ha,
    run_sendByte (by exact hf) (by exact ha), runProgram_cons (by exact hf) (by exact ha)]
  rfl

/-- After the command byte and `k` bytes received `n - k` are left, and RB holds the `k` bytes (R118). -/
theorem run_rdregs_cut {s : State} (hf : s.config.portCanFail = false) (ha : s.aborted = false) (a : Address)
    (n k : Nat) :
    (runProgram (readPreamble a n ++ recvBytesProgram k) s).bytecnt = some (n - k) ∧
      (runProgram (readPreamble a n ++ recvBytesProgram k) s).rb = s.rb ++ (List.range k).map s.nextByte := by
  rw [runProgram_append hf ha, run_readPreamble hf ha]
  obtain ⟨sr, bitcnt, hrun⟩ := run_recvBytes k (s := { s with
      bitcnt := some 0
      bytecnt := some n
      lvl := { cs := some false, clk := some false, mosi := some ((readCommand a).getLsbD 0) }
      trace := s.trace ++ [.drv .cs false] ++ sendEvents (readCommand a)
      seq := seqAfter (seqAfter s.seq 1) 24 }) hf ha
  rw [hrun]
  exact ⟨rfl, rfl⟩

/-- Settles O11: RDREGS's program (R118) run from admission to response, and cut after each of its bytes. -/
theorem rdregsReceivesCountBytes : Obligations.RdregsReceivesCountBytes := by
  refine ⟨fun s a n hs ha hn hmax => ?_, fun s a n k hs _ hk => ?_, fun s a n hs _ => ?_,
    fun s a n => exec_not_inited rfl (by simp)⟩
  · rw [exec_rdregs hs ha hn hmax, addressOf_bit_zero, ← readCommand_addressOf ha, ← recvEvents_levels]
    rfl
  · obtain ⟨haborted, -, -, hport⟩ := hs
    have hrun := run_rdregs_cut (s := s.accept (.rdregs a n)) hport haborted (addressOf a) n k
    refine ⟨_, _, rdregsProgram_cut (addressOf a) hk, ?_, hrun.1, hrun.2⟩
    rw [portsOf_append, List.length_append, length_portsOf_recvBytes]
    rfl
  · obtain ⟨haborted, -, -, hport⟩ := hs
    obtain ⟨sr, bitcnt, hrun⟩ := run_rdregs (s := s.accept (.rdregs a n)) hport haborted (addressOf a) n
    rw [programOf, hrun]
    exact ⟨rfl, rfl⟩

/-! ### INIT -/

/-- INIT on a block that is ready for it (R142): everything it changes over the released state. -/
theorem exec_init {s : State} (hs : ReadyForInit s) :
    exec .init s = .next { s.release with
      inited := true
      dir := { cs := some .out, clk := some .out, mosi := some .out, miso := some .input }
      lvl := { cs := some true, clk := some false, mosi := some true }
      trace := s.trace ++ initEvents s.config
      responses := s.responses ++ [.done] } := by
  obtain ⟨ha, hb, hinited, hf, hpins, hwf⟩ := hs
  rw [exec_admitted rfl ha hb hf (admission_init.mpr ⟨hpins, hinited⟩), programOf, ← State.accept_config,
    run_init (s := s.accept .init) hf ha hwf]
  rfl

@[simp] theorem length_sendEvents (v : Byte) : (sendEvents v).length = 24 := rfl

@[simp] theorem length_writeEvents (a : Address) (v : Byte) : (writeEvents a v).length = 50 := rfl

@[simp] theorem samplesOf_writeEvents (a : Address) (v : Byte) : samplesOf (writeEvents a v) = [] := rfl

/-- Each set-up request is one event. -/
theorem length_setupEvents {ps : List Port} (hp : .smp ∉ ps) : (ps.flatMap setupEvent).length = ps.length := by
  induction ps with
  | nil => rfl
  | cons p ps ih =>
    obtain ⟨hhead, htail⟩ := not_or.mp (List.mem_cons.not.mp hp)
    have hone : (setupEvent p).length = 1 := by
      cases p with
      | smp => exact absurd rfl hhead
      | _ => rfl
    rw [List.flatMap_cons, List.length_append, ih htail, hone, List.length_cons, Nat.add_comm]

/-- No set-up event samples. -/
theorem samplesOf_setupEvents (ps : List Port) : samplesOf (ps.flatMap setupEvent) = [] := by
  induction ps with
  | nil => rfl
  | cons p ps ih =>
    rw [List.flatMap_cons, samplesOf_append, ih]
    cases p <;> rfl

/-- Settles O12: INIT's program (R142) run from admission to response; a legal order lists each set-up request once. -/
theorem initConfiguresAndWritesModeOnce : Obligations.InitConfiguresAndWritesModeOnce := by
  refine ⟨fun s hs => exec_init hs, fun c hwf => ?_, rfl⟩
  have hsetup : (c.initOrder.flatMap setupEvent).length = 7 := by
    rw [length_setupEvents (setup_no_sample hwf), setup_length hwf]
  refine ⟨hsetup, ?_, ?_⟩
  · rw [initEvents, List.length_append, hsetup, length_writeEvents]
  · rw [initEvents, samplesOf_append, samplesOf_setupEvents, samplesOf_writeEvents, List.append_nil]

/-- Settles O48: INIT leaves INITED set, and the admission check reads it. -/
theorem initOnlyOnce : Obligations.InitOnlyOnce := by
  intro s hs
  obtain ⟨ha, -, -, hf, hpins, -⟩ := id hs
  exact ⟨_, exec_init hs, ⟨ha, rfl, rfl, hf⟩, exec_refused rfl ha rfl (by simp [admission, hpins])⟩

/-! ### The device operations of a constructed block -/

theorem exec_reqconv {s : State} (hs : Ready s) :
    exec .reqconv s = .next { s.release with
      lvl := { cs := some true, clk := some false, mosi := some false }
      trace := s.trace ++ reqconvEvents s.config
      responses := s.responses ++ [.done] } := by
  obtain ⟨-, -, hinited, -⟩ := id hs
  exact exec_ready hs rfl ((admission_plain (by simp)).mpr hinited)

theorem exec_rdcj {s : State} (hs : Ready s) :
    exec .rdcj s = .next { s.release with
      lvl := { cs := some true, clk := some false, mosi := some true }
      trace := s.trace ++ (reqconvEvents s.config ++ readEvents Config.cjAddr (s.levels 24))
      answers := s.answers.drop 24
      samples := s.samples + 24
      responses := s.responses ++ [.okCj (decCj (s.nextByte 0) (s.nextByte 1) (s.nextByte 2))] } := by
  obtain ⟨-, -, hinited, -⟩ := id hs
  exact exec_ready hs rfl ((admission_plain (by simp)).mpr hinited)

theorem exec_rdtc {s : State} (hs : Ready s) :
    exec .rdtc s = .next { s.release with
      lvl := { cs := some true, clk := some false, mosi := some false }
      trace := s.trace ++ (reqconvEvents s.config ++ readEvents Config.tcAddr (s.levels 32))
      answers := s.answers.drop 32
      samples := s.samples + 32
      responses := s.responses ++ [tcResponse s.config.faultTest
        (decTc (s.nextByte 0) (s.nextByte 1) (s.nextByte 2)) (s.nextByte 3)] } := by
  obtain ⟨-, -, hinited, -⟩ := id hs
  exact exec_ready hs rfl ((admission_plain (by simp)).mpr hinited)

/-- Settles O13: REQCONV's program (R144) run from admission to response, and cut where the delay starts. -/
theorem reqconvWritesControlThenWaits : Obligations.ReqconvWritesControlThenWaits := by
  refine ⟨fun s hs => exec_reqconv hs, fun s hs => ?_, fun s => exec_not_inited rfl (by simp)⟩
  obtain ⟨ha, -, -, hf⟩ := hs
  have ha' : (s.accept .reqconv).aborted = false := ha
  have hf' : (s.accept .reqconv).config.portCanFail = false := hf
  refine ⟨wrregProgram Config.cr0Addr Config.cr0Value ++ [.setDly s.config.convDelayMs], [.expireDly], ?_, ?_, ?_⟩
  · simp only [programOf, reqconvProgram, List.append_assoc, List.cons_append, List.nil_append]
  · rw [runProgram_append hf' ha', run_wrreg hf' ha', runProgram_cons (by exact hf) (by exact ha)]
    rfl
  · rw [programOf, ← State.accept_config, run_reqconv hf' ha']

/-- Settles O14: RDCJ's program (R145) run from admission to response. -/
theorem rdcjRequestsReadsAndDecodes : Obligations.RdcjRequestsReadsAndDecodes := by
  refine ⟨fun s hs => ?_, fun s hs => ?_, fun s => exec_not_inited rfl (by simp)⟩
  · rw [exec_rdcj hs, ← recvEvents_levels]
    rfl
  · obtain ⟨ha, -, -, hf⟩ := hs
    obtain ⟨sr, bitcnt, hrun⟩ := run_rdcj (s := s.accept .rdcj) hf ha rfl
    exact ⟨_, hrun.symm, rfl, rfl, rfl, rfl⟩

/-- Settles O15: RDTC's program (R146) run from admission to response. -/
theorem rdtcRequestsReadsAndDecodes : Obligations.RdtcRequestsReadsAndDecodes := by
  refine ⟨fun s hs => ?_, fun s hs => ?_, fun s => exec_not_inited rfl (by simp)⟩
  · rw [exec_rdtc hs, ← recvEvents_levels]
    rfl
  · obtain ⟨ha, -, -, hf⟩ := hs
    obtain ⟨sr, bitcnt, hrun⟩ := run_rdtc (s := s.accept .rdtc) hf ha rfl
    exact ⟨_, hrun.symm, rfl, rfl, rfl, rfl, rfl⟩

@[simp] theorem length_recvEvents (ls : List Level) : (recvEvents ls).length = 3 * ls.length := by
  simp [recvEvents, recvCell, Nat.mul_comm]

@[simp] theorem length_readEvents (a : Address) (ls : List Level) : (readEvents a ls).length = 26 + 3 * ls.length := by
  simp [readEvents]
  omega

@[simp] theorem length_reqconvEvents (c : Config) : (reqconvEvents c).length = 51 := rfl

/-- Settles O16: RDCJ leaves the block ready for RDTC, and each makes its own request. -/
theorem eachReadMakesItsOwnConversion : Obligations.EachReadMakesItsOwnConversion := by
  intro s hs
  obtain ⟨ha, -, hinited, hf⟩ := id hs
  refine ⟨_, _, exec_rdcj hs, exec_rdtc ⟨ha, rfl, hinited, hf⟩, ?_, ?_⟩
  · simp only [List.append_assoc]
    rfl
  · simp

/-- Settles O30: RDTC's equation (R146) with a fault byte that is not zero. -/
theorem faultErrorIsPrecise : Obligations.FaultErrorIsPrecise := by
  intro s hs hbitset hfault
  obtain ⟨ha, -, hinited, hf⟩ := id hs
  obtain ⟨k, hk⟩ := Option.ne_none_iff_exists'.mp (mt (faultSel_bitset_eq_none_iff _).mp hfault)
  refine ⟨_, k, exec_rdtc hs, hk, ?_, ?_, List.take_left' rfl, rfl, rfl, rfl, rfl, rfl, rfl, rfl, hinited,
    ha, rfl, hinited, hf⟩
  · rw [tcResponse_of_fault (hbitset ▸ hk)]
  · simp

/-- Settles O58: RDTC's equation (R146) with four bytes of ones, and with four of zeros. -/
theorem stuckDataInIsNotDetected : Obligations.StuckDataInIsNotDetected := by
  intro s hs hbitset
  refine ⟨_, exec_rdtc hs, fun hhigh => ?_, fun hlow => ?_⟩
  · have hbyte : s.nextByte 3 = 0xFF := nextByte_of_levelAt fun i hi => by
      rw [hhigh _ (by omega)]
      interval_cases i <;> rfl
    rw [hbyte, hbitset, tcResponse_of_fault (by rfl)]
  · have hbyte : ∀ k < 4, s.nextByte k = 0 := fun k hk => nextByte_of_levelAt fun i hi => by
      rw [hlow _ (by omega)]
      exact BitVec.getLsbD_zero.symm
    rw [hbyte 0 (by decide), hbyte 1 (by decide), hbyte 2 (by decide), hbyte 3 (by decide), hbitset,
      tcResponse_of_no_fault (by rfl)]
    rfl

end Sys2Proof.Machine
end

section
/-! SUPPORT. What a step runs and when an operation has no step (30_encoding.md R92 to R99, 60_exceptions.md R195). -/

namespace Sys2Proof.Machine

/-! ### What a step takes up -/

/-- An idle block runs the operation its next request names (R92). -/
theorem step_request {s : State} {r : Request} {rest : List Request} (ha : s.aborted = false) (hq : s.seq = .idle)
    (hp : s.probe = none) (hr : s.requests = r :: rest) : step s = serve r { s with requests := rest } := by
  simp only [step, ha, hq, hp, hr, Bool.false_eq_true, if_false]

/-- A use of a function comes before the requests (log 9). -/
theorem step_probe {s : State} {d : DataWord} (ha : s.aborted = false) (hq : s.seq = .idle)
    (hp : s.probe = some d) : step s = evaluate d { s with probe := none } := by
  simp only [step, ha, hq, hp, Bool.false_eq_true, if_false]

theorem serve_of_ok {r : Request} {i : Instr} (h : r.instr = .ok i) (s : State) : serve r s = exec i s := by
  rw [serve, h]

/-- A reserved word is refused (R99). -/
theorem serve_of_error {r : Request} {e : DecodeError} (h : r.instr = .error e) {s : State} (hb : s.busy = false) :
    serve r s = .next (s.refuse .reserved) := by
  rw [serve, h, refuseReserved, if_neg (by simp [hb])]

/-- A word of a data format is a function's, which always answers (R86 to R88). -/
theorem exec_decodeData (d : DataWord) (s : State) : ∃ t, exec (decodeData d) s = .next t := by
  obtain ⟨raw, q, x, h⟩ := exec_function (i := decodeData d) (by cases d <;> rfl) s
  exact ⟨_, h⟩

/-- Settles O5, one case of the step at a time. -/
theorem stepServesTheNextRequest : Obligations.StepServesTheNextRequest := by
  refine ⟨fun s ha => ?_, fun s op k ha hq => step_running ha hq, fun s ha hq hp hr => ?_,
    fun s r rest i ha hq hp hr hi => ?_, fun s r rest e ha hb hq hp hr he => ?_, fun s d ha hq hp => ?_⟩
  · rw [step, if_pos ha]
  · simp only [step, ha, hq, hp, hr, Bool.false_eq_true, if_false]
  · rw [step_request ha hq hp hr, serve_of_ok hi]
  · rw [step_request ha hq hp hr, serve_of_error he (by exact hb)]
    rfl
  · obtain ⟨t, ht⟩ := exec_decodeData d { s with probe := none }
    exact ⟨t, ht, by rw [step_probe ha hq hp, evaluate_of_exec ht]⟩

/-- Settles O6: the reset state field by field. -/
theorem resetIsTheStateBeforeConstruction : Obligations.ResetIsTheStateBeforeConstruction :=
  ⟨rfl, rfl, rfl, rfl, rfl, rfl, rfl, rfl, rfl, rfl, rfl, rfl, rfl, rfl, rfl, rfl, rfl, rfl, rfl, rfl, by decide,
    fun _ => rfl⟩

/-- A table word that is an instruction is a word of its format. -/
theorem decode_of_decodeTableWord {nbits w : Nat} {i : Instr} (h : decodeTableWord nbits w = some i) :
    decode (frameOfTable nbits w) = .ok i := by
  rw [decodeTableWord] at h
  split at h
  next j hj => rw [hj, Option.some.inj h]
  next => cases h

/-- A command word names an operation, a data word a function (R90). -/
theorem isOperation_of_decode_cmd16 {w : Cmd16} {i : Instr} (h : decode (.cmd16 w) = .ok i) : i.isOperation = true :=
  request_isOperation (r := .word w) h

theorem isOperation_decodeData (d : DataWord) : (decodeData d).isOperation = false := by
  cases d <;> rfl

/-- Settles O7: a command word stands first among the requests, a data word as the next use of its function. -/
theorem fetchWordIsRunNext : Obligations.FetchWordIsRunNext := by
  intro s nbits w i ha h
  have hdecode := decode_of_decodeTableWord h
  rw [State.withFetchWord]
  cases hframe : frameOfTable nbits w with
  | cmd16 c =>
    rw [hframe] at hdecode
    have hop := isOperation_of_decode_cmd16 hdecode
    refine ⟨fun _ => ?_, fun hfun => absurd (hop.symm.trans hfun) (by decide)⟩
    rw [step_request (s := s.present (.cmd16 c)) ha rfl rfl rfl, serve_of_ok (r := .word c) hdecode]
    rfl
  | data d =>
    rw [hframe] at hdecode
    obtain rfl : decodeData d = i := Except.ok.inj hdecode
    refine ⟨fun hop => absurd (hop.symm.trans (isOperation_decodeData d)) (by decide), fun _ => ?_⟩
    obtain ⟨t, ht⟩ := exec_decodeData d { s with busy := false, seq := .idle, probe := none }
    exact ⟨t, ht, by rw [step_probe (s := s.present (.data d)) ha rfl rfl]; exact evaluate_of_exec ht⟩
  | unknown n v =>
    rw [hframe] at hdecode
    cases hdecode

/-! ### Admission -/

/-- Settles O28, check by check in the order of R95. -/
theorem admissionChecksInOrder : Obligations.AdmissionChecksInOrder := by
  intro s ha hb
  refine ⟨fun hpins => ?_, fun hpins hinited => ?_, fun hinited i hi => ?_, fun hinited a x haddr => ⟨?_, ?_⟩,
    fun hinited a v hv => ⟨?_, fun haddr => ?_⟩, fun hinited a n haddr hcount => ?_,
    fun w e rest hq hp hr he => ?_⟩
  · exact exec_refused rfl ha hb (by simp [admission, hpins])
  · exact exec_refused rfl ha hb (by simp [admission, hpins, hinited])
  · cases i with
    | init | dectc _ _ _ | deccj _ _ _ | faultsel _ => exact hi.elim
    | _ => exact exec_not_inited rfl (by simp) ha hb hinited
  · exact exec_refused rfl ha hb (by simp [admission, hinited, addressOk, haddr])
  · exact exec_refused rfl ha hb (by simp [admission, hinited, addressOk, haddr])
  · exact exec_refused rfl ha hb (by simp [admission, hinited, valueOk, hv])
  · exact exec_refused rfl ha hb (by simp [admission, hinited, addressOk, valueOk, haddr, hv])
  · refine exec_refused rfl ha hb ?_
    rcases hcount with rfl | ⟨m, hm, hlt⟩
    · simp [admission, hinited, addressOk, haddr, countOk]
    · simp [admission, hinited, addressOk, haddr, hm, hlt]
  · rw [step_request ha hq hp hr, serve_of_error (r := .word w) he (by exact hb)]
    rfl

/-! ### No step -/

/-- Settles O29: BUSY is looked at before admission. -/
theorem hostHasNoMoveWhileBusy : Obligations.HostHasNoMoveWhileBusy := by
  intro s i ha hb hi
  have hop : i.isOperation = true := by
    cases i with
    | dectc _ _ _ | deccj _ _ _ | faultsel _ => exact hi.elim
    | _ => rfl
  rw [exec_operation hop, performOp, if_neg (by simp [ha]), if_pos hb]

/-- Settles O33: the fault record is looked at before everything else. -/
theorem abortIsTerminal : Obligations.AbortIsTerminal := by
  intro s ha
  refine ⟨by rw [step, if_pos ha], fun i hi => ?_⟩
  have hop : i.isOperation = true := by
    cases i with
    | dectc _ _ _ | deccj _ _ _ | faultsel _ => exact hi.elim
    | _ => rfl
  rw [exec_operation hop, performOp, if_pos ha]

/-- Settles O47: a request is an operation, and no operation and no move of the sequencer writes the model's own
fields. -/
theorem functionsAreNoHostRequests : Obligations.FunctionsAreNoHostRequests := by
  refine ⟨fun r i => request_isOperation, fun s t hprobe h => ?_⟩
  obtain ⟨-, ⟨op, k, -, rfl⟩ | ⟨-, d, x, hd, -⟩ | ⟨-, -, -, rfl⟩ | ⟨-, -, r, rest, -, hserved⟩⟩ := step_cases h
  · obtain ⟨-, -, hp, hres⟩ := tick_frame op k s
    exact ⟨hp.trans hprobe, hres⟩
  · rw [hprobe] at hd
    cases hd
  · exact ⟨hprobe, rfl⟩
  · rcases hserved with ⟨i, hi, hexec⟩ | ⟨-, -, rfl⟩
    · obtain ⟨-, -, hp, hres⟩ := exec_frame (request_isOperation hi) hexec
      exact ⟨hp.trans hprobe, hres⟩
    · exact ⟨hprobe, rfl⟩

end Sys2Proof.Machine
end

section
/-! SUPPORT. How an operation can end: refused, aborted, or answered; that it is always answered; and what the end of it
cannot be. -/

namespace Sys2Proof.Machine

/-- The state an operation's program has run to. -/
abbrev State.afterRun (s : State) (i : Instr) : State := runProgram (programOf s.config i) (s.accept i)

/-- A run that did not fail is the run on a port that cannot fail, but for the record of the port's answers. -/
theorem afterRun_soundPort {i : Instr} {s : State} (h : (s.afterRun i).aborted = false) (fs : List Bool) (n : Nat) :
    runProgram (programOf s.config i) ((s.accept i).soundPort fs n) = (s.afterRun i).soundPort fs n :=
  runProgram_unfailed h fs n

/-- An operation that did not fail has written every register it answers, so it answers (R22, R92; log 21). -/
theorem endingOf_afterRun {i : Instr} {s : State} (hop : i.isOperation = true) (hs : s.aborted = false)
    (h : (s.afterRun i).aborted = false) : ∃ r, r ≠ .abort ∧ (i ≠ .rdtc → ∀ k, r ≠ .fault k) ∧
      endingOf i (s.afterRun i) = (s.afterRun i).respond r := by
  have hsound := afterRun_soundPort h [] 0
  cases i with
  | init | sendbyte _ | wrreg _ _ | rdregs _ _ | reqconv => exact ⟨_, by simp, by simp, rfl⟩
  | recvbyte =>
    rw [programOf, run_recvByte rfl (by exact hs)] at hsound
    obtain ⟨b, hsr⟩ : ∃ b, (s.afterRun .recvbyte).sr = some b := ⟨_, (congrArg State.sr hsound).symm⟩
    refine ⟨.okByte b, by simp, by simp, ?_⟩
    rw [endingOf, endRecvbyte, hsr]
  | rdcj =>
    obtain ⟨sr, bitcnt, hrun⟩ := run_rdcj (s := (s.accept .rdcj).soundPort [] 0) rfl hs rfl
    have hq : (s.afterRun .rdcj).q = some _ := congrArg State.q (hsound.symm.trans hrun)
    exact ⟨_, by simp, by simp, endRdcj_of_q hq⟩
  | rdtc =>
    obtain ⟨sr, bitcnt, hrun⟩ := run_rdtc (s := (s.accept .rdtc).soundPort [] 0) rfl hs rfl
    have hq : (s.afterRun .rdtc).q = some _ := congrArg State.q (hsound.symm.trans hrun)
    have hflt : (s.afterRun .rdtc).flt = some _ := congrArg State.flt (hsound.symm.trans hrun)
    refine ⟨_, ?_, by simp, endRdtc_of_q_flt hq hflt⟩
    rw [tcResponse]
    split <;> simp
  | dectc _ _ _ | deccj _ _ _ | faultsel _ => cases hop

/-- Everything an operation that answers a next state can have done: it was refused, or a port event failed and it was
aborted, or it ran to its own response. -/
theorem exec_operation_cases {i : Instr} {s t : State} (hop : i.isOperation = true) (h : exec i s = .next t) :
    s.aborted = false ∧ s.busy = false ∧
    ((∃ why, admission i s = some why ∧ t = s.refuse why) ∨
     (admission i s = none ∧ (s.afterRun i).aborted = true ∧ t = (s.afterRun i).takeAbort) ∨
     (admission i s = none ∧ (s.afterRun i).aborted = false ∧ ∃ r, r ≠ .abort ∧ (i ≠ .rdtc → ∀ k, r ≠ .fault k) ∧
       t = (s.afterRun i).respond r)) := by
  obtain ⟨hfun, -⟩ | ⟨-, ha, hb, hrefused | ⟨hc, rfl⟩⟩ := exec_cases h
  · exact absurd (hop.symm.trans hfun) (by decide)
  · exact ⟨ha, hb, .inl hrefused⟩
  · refine ⟨ha, hb, .inr ?_⟩
    rw [State.conclude]
    split
    next hfailed => exact .inl ⟨hc, hfailed, rfl⟩
    next hfailed =>
      have hfailed' : (s.afterRun i).aborted = false := by simpa using hfailed
      obtain ⟨r, hr, hfault, hend⟩ := endingOf_afterRun hop ha hfailed'
      exact .inr ⟨hc, hfailed', r, hr, hfault, hend⟩

/-- A run answers nothing by itself (R93). -/
theorem afterRun_responses (s : State) (i : Instr) : (s.afterRun i).responses = s.responses :=
  (runProgram_frame _ _).2.1

/-- An operation is answered with exactly one response, and only RDTC's can be a fault kind (R92, R193). -/
theorem exec_responses {i : Instr} {s t : State} (hop : i.isOperation = true) (h : exec i s = .next t) :
    ∃ r, t.responses = s.responses ++ [r] ∧ (i ≠ .rdtc → ∀ k, r ≠ .fault k) := by
  obtain ⟨-, -, ⟨why, -, rfl⟩ | ⟨-, -, rfl⟩ | ⟨-, -, r, -, hfault, rfl⟩⟩ := exec_operation_cases hop h
  · exact ⟨_, rfl, by simp⟩
  · exact ⟨.abort, congrArg (· ++ [_]) (afterRun_responses s i), by simp⟩
  · exact ⟨r, congrArg (· ++ [_]) (afterRun_responses s i), hfault⟩

/-- Settles O31: each operation ends in one of three ways, a function hands the host nothing. -/
theorem onlyRdtcAnswersAFaultKind : Obligations.OnlyRdtcAnswersAFaultKind := by
  constructor
  · intro i s t hne h
    cases hop : i.isOperation with
    | true =>
      obtain ⟨r, hr, hfault⟩ := exec_responses hop h
      exact .inr ⟨rfl, r, hr, hfault hne⟩
    | false =>
      obtain ⟨raw, q, x, e⟩ := exec_function hop s
      obtain rfl := Host.Outcome.next.inj (h.symm.trans e)
      exact .inl ⟨rfl, rfl⟩
  · intro s hs hmax
    exact ⟨_, exec_rdregs hs (by decide) (by decide) hmax, rfl⟩

/-- Settles O44: the request taken is an operation or a reserved word. -/
theorem oneResponsePerRequest : Obligations.OneResponsePerRequest := by
  intro s t r rest hq hp hr h
  obtain ⟨-, ⟨op, k, hrunning, -⟩ | ⟨-, d, x, hd, -⟩ | ⟨-, -, hnone, -⟩ | ⟨-, -, r', rest', hr', hserved⟩⟩ :=
    step_cases h
  · simp [hq] at hrunning
  · simp [hp] at hd
  · simp [hr] at hnone
  · obtain ⟨rfl, rfl⟩ := List.cons.inj (hr.symm.trans hr')
    rcases hserved with ⟨i, hi, hexec⟩ | ⟨-, -, rfl⟩
    · have hop := request_isOperation hi
      obtain ⟨-, hreq, -⟩ := exec_frame hop hexec
      obtain ⟨a, hresp, -⟩ := exec_responses hop hexec
      exact ⟨hreq, a, hresp⟩
    · exact ⟨rfl, _, rfl⟩

/-! ### A port that does not fail -/

/-- Settles O34: without a failure no run is aborted, and no operation's own ending is the Abort. -/
theorem noAbortOnThisHardware : Obligations.NoAbortOnThisHardware := by
  intro s t hf h
  obtain ⟨ha, hcases⟩ := step_cases h
  obtain ⟨op, k, -, rfl⟩ | ⟨-, d, x, -, rfl⟩ | ⟨-, -, -, rfl⟩ | ⟨-, -, r, rest, -, hserved⟩ := hcases
  · obtain ⟨hc, -⟩ := tick_frame op k s
    rw [hc]
    rcases tick_cases op k s with e | ⟨ms, -, e⟩
    · rw [e, State.conclude, if_neg (by simp [ha])]
      obtain hrel | ⟨r, hr, -, hresp⟩ := endingOf_cases op s
      · rw [hrel]
        exact ⟨ha, hf, .inl rfl⟩
      · rw [hresp]
        exact ⟨ha, hf, .inr ⟨r, rfl, hr⟩⟩
    · have hrun := runProgram_aborted hf ha ms
      rw [e, State.conclude, if_neg (by simp [hrun])]
      exact ⟨hrun, hf, .inl (runProgram_frame ms s).2.1⟩
  · exact ⟨ha, hf, .inl rfl⟩
  · exact ⟨ha, hf, .inl rfl⟩
  · rcases hserved with ⟨i, hi, hexec⟩ | ⟨-, -, rfl⟩
    · have hop := request_isOperation hi
      obtain ⟨hc, -⟩ := exec_frame hop hexec
      have hrun := runProgram_aborted (s := State.accept i { s with requests := rest }) hf ha
      obtain ⟨-, -, ⟨why, -, rfl⟩ | ⟨-, hfailed, -⟩ | ⟨-, -, r, hr, -, rfl⟩⟩ := exec_operation_cases hop hexec
      · exact ⟨ha, hf, .inr ⟨_, rfl, by simp⟩⟩
      · exact absurd (hfailed.symm.trans (hrun _)) (by decide)
      · exact ⟨hrun _, by rw [hc]; exact hf, .inr ⟨r, congrArg (· ++ [r]) (afterRun_responses _ i), hr⟩⟩
    · exact ⟨ha, hf, .inr ⟨_, rfl, by simp⟩⟩

/-- An ending does not look at what the port answered. -/
theorem endingOf_soundPort (i : Instr) (s : State) (fs : List Bool) (n : Nat) :
    endingOf i (s.soundPort fs n) = (endingOf i s).soundPort fs n := by
  cases i with
  | recvbyte => simp only [endingOf, endRecvbyte, State.soundPort]; split <;> rfl
  | rdcj => simp only [endingOf, endRdcj, State.soundPort]; split <;> rfl
  | rdtc =>
    simp only [endingOf, endRdtc, State.soundPort]
    split
    · split <;> rfl
    · rfl
  | _ => rfl

/-- Admission does not look at what the port answers. -/
theorem admission_soundPort (i : Instr) (s : State) (fs : List Bool) (n : Nat) :
    admission i (s.soundPort fs n) = admission i s := by
  cases i <;> rfl

/-- The programs do not depend on whether the port can fail. -/
theorem programOf_soundPort (i : Instr) (s : State) (fs : List Bool) (n : Nat) :
    programOf (s.soundPort fs n).config i = programOf s.config i := by
  cases i <;> rfl

/-- Where no port event failed, an instruction answers what it answers on a port that cannot fail. -/
theorem exec_unfailed {i : Instr} {s t : State} (h : exec i s = .next t) (ht : t.aborted = false) (fs : List Bool)
    (n : Nat) : exec i (s.soundPort fs n) = .next (t.soundPort fs n) := by
  cases hop : i.isOperation with
  | false =>
    cases i with
    | dectc _ _ _ | deccj _ _ _ | faultsel _ => rw [← Host.Outcome.next.inj h]; rfl
    | _ => cases hop
  | true =>
    obtain ⟨hfun, -⟩ | ⟨-, ha, hb, ⟨why, hc, rfl⟩ | ⟨hc, rfl⟩⟩ := exec_cases h
    · exact absurd (hop.symm.trans hfun) (by decide)
    · exact exec_refused hop ha hb ((admission_soundPort i s fs n).trans hc)
    · obtain ⟨-, -, -, -, hab, -⟩ := conclude_frame i (s.afterRun i)
      have hrun : (s.afterRun i).aborted = false := hab.symm.trans ht
      rw [exec_admitted (s := s.soundPort fs n) hop ha hb rfl ((admission_soundPort i s fs n).trans hc),
        programOf_soundPort, State.conclude, if_neg (by simp [hrun]), ← endingOf_soundPort,
        ← afterRun_soundPort hrun fs n]
      rfl

/-- No instruction changes the configuration (R20). -/
theorem exec_config {i : Instr} {s t : State} (h : exec i s = .next t) : t.config = s.config := by
  cases hop : i.isOperation with
  | true => exact (exec_frame hop h).1
  | false =>
    obtain ⟨raw, q, x, e⟩ := exec_function hop s
    exact Host.Outcome.next.inj (h.symm.trans e) ▸ rfl

/-- Settles O35: the sound run is the run itself with the parameter and the record of the port's answers put back. -/
theorem unfailedRunIsTheSoundRun : Obligations.UnfailedRunIsTheSoundRun := by
  intro i s t _ h ht
  refine ⟨t.soundPort s.failures s.attempts, exec_unfailed h ht s.failures s.attempts, ?_⟩
  rw [← exec_config h]
  rfl

/-! ### What was there before -/

theorem admission_congr {s u : State} (hc : u.config = s.config) (hi : u.inited = s.inited) (i : Instr) :
    admission i u = admission i s := by
  cases i <;> simp only [admission, hc, hi]

/-- Two states that differ in transient registers only are alike to an admitted operation (R22). -/
theorem exec_of_clearTransients_eq {s u : State} {i : Instr} (h : u.clearTransients = s.clearTransients)
    (hc : admission i s = none) (hne : portsOf (programOf s.config i) ≠ []) : exec i u = exec i s := by
  have hconfig : u.config = s.config := by simpa using congrArg State.config h
  have haborted : u.aborted = s.aborted := by simpa using congrArg State.aborted h
  have hbusy : u.busy = s.busy := by simpa using congrArg State.busy h
  have hinited : u.inited = s.inited := by simpa using congrArg State.inited h
  have haccept : u.accept i = s.accept i := congrArg (fun x => { x.setBusy with seq := .running i 0 }) h
  have hadm : admission i u = none := (admission_congr hconfig hinited i).trans hc
  rw [exec_eq_performOp hne, exec_eq_performOp (hconfig ▸ hne), performOp, performOp, hc, hadm, haborted, hbusy,
    haccept, hconfig]

/-- Settles O42: acceptance leaves no transient register with a value, so what they held is not there to be read. -/
theorem operationsReadNoEarlierRegister : Obligations.OperationsReadNoEarlierRegister :=
  fun _ _ _ _ _ _ _ _ _ _ hc hne => exec_of_clearTransients_eq rfl hc hne

/-- Acceptance with other levels to be sampled (R24). -/
theorem accept_sameShape (s : State) (i : Instr) (answers : List Level) (n : Nat) :
    SameShape (State.accept i { s with answers := answers, samples := n }) (s.accept i) := by
  constructor <;> rfl

/-- An operation ends idle, whatever it answers (R24, R25). -/
theorem conclude_idle (i : Instr) (s : State) :
    (s.conclude (endingOf i)).seq = .idle ∧ (s.conclude (endingOf i)).busy = false := by
  rw [State.conclude]
  split
  · exact ⟨rfl, rfl⟩
  · obtain e | ⟨r, -, -, e⟩ := endingOf_cases i s <;> rw [e] <;> exact ⟨rfl, rfl⟩

/-- Settles O41: two runs with other levels sampled have the same shape, and so have their ends. -/
theorem answersNeverSteerTheEvents : Obligations.AnswersNeverSteerTheEvents := by
  intro i s t answers n h
  obtain ⟨hop, raw, q, x, rfl⟩ | ⟨hop, ha, hb, ⟨why, hc, rfl⟩ | ⟨hc, rfl⟩⟩ := exec_cases h
  · obtain ⟨raw', q', x', e⟩ := exec_function hop { s with answers := answers, samples := n }
    exact ⟨_, e, rfl, rfl, rfl, rfl, rfl, rfl, rfl⟩
  · have hc' : admission i { s with answers := answers, samples := n } = some why :=
      (admission_congr rfl rfl i).trans hc
    exact ⟨_, exec_refused hop ha hb hc', rfl, rfl, rfl, rfl, rfl, rfl, rfl⟩
  · have hc' : admission i { s with answers := answers, samples := n } = none := (admission_congr rfl rfl i).trans hc
    have hshape := runProgram_sameShape (accept_sameShape s i answers n) (programOf s.config i)
    refine ⟨State.conclude (endingOf i) (State.afterRun { s with answers := answers, samples := n } i), ?_, ?_⟩
    · rw [exec_operation hop, performOp, if_neg (by simp [ha]), if_neg (by simp [hb]), hc']
    · obtain ⟨-, hdir, hlvl, hinited, haborted, htrace, -⟩ := conclude_frame i (s.afterRun i)
      obtain ⟨-, hdir', hlvl', hinited', haborted', htrace', -⟩ :=
        conclude_frame i (State.afterRun { s with answers := answers, samples := n } i)
      obtain ⟨hseq, hbusy⟩ := conclude_idle i (s.afterRun i)
      obtain ⟨hseq', hbusy'⟩ := conclude_idle i (State.afterRun { s with answers := answers, samples := n } i)
      rw [hdir, hlvl, hinited, haborted, htrace, hdir', hlvl', hinited', haborted', htrace', hseq, hbusy, hseq', hbusy']
      exact ⟨hshape.trace, hshape.lvl, hshape.dir, hshape.inited, hshape.aborted, rfl, rfl⟩

end Sys2Proof.Machine
end

section
/-! SUPPORT. What runs leave alone: only INIT's lines set up the block (10_state.md R25, R27), and the trace and the
responses only grow (R39, R65). -/

namespace Sys2Proof.Machine

/-! ### Lines that set up nothing -/

/-- A line that configures a pin or sets INITED: a line of INIT (R142). -/
def Micro.setsUp : Micro → Bool
  | .port (.cfgOut _) => true
  | .port .cfgIn => true
  | .setInited => true
  | _ => false

theorem sendByteProgram_setsUp (v : Byte) : ∀ m ∈ sendByteProgram v, m.setsUp = false := by
  simp [sendByteProgram, wireOrder, Micro.setsUp]

theorem recvByteProgram_setsUp : ∀ m ∈ recvByteProgram, m.setsUp = false := by
  decide

theorem recvBytesProgram_setsUp (n : Nat) : ∀ m ∈ recvBytesProgram n, m.setsUp = false := by
  induction n with
  | zero => simp [recvBytesProgram]
  | succ n ih =>
    simp only [recvBytesProgram, List.forall_mem_append]
    exact ⟨⟨recvByteProgram_setsUp, by decide⟩, ih⟩

theorem wrregProgram_setsUp (a : Address) (v : Byte) : ∀ m ∈ wrregProgram a v, m.setsUp = false := by
  simp only [wrregProgram, List.forall_mem_append]
  exact ⟨⟨⟨by decide, sendByteProgram_setsUp _⟩, sendByteProgram_setsUp _⟩, by decide⟩

theorem rdregsProgram_setsUp (a : Address) (n : Nat) : ∀ m ∈ rdregsProgram a n, m.setsUp = false := by
  simp only [rdregsProgram, List.forall_mem_append]
  exact ⟨⟨⟨⟨by decide, sendByteProgram_setsUp _⟩, by simp [Micro.setsUp]⟩, recvBytesProgram_setsUp n⟩, by decide⟩

theorem reqconvProgram_setsUp (c : Config) : ∀ m ∈ reqconvProgram c, m.setsUp = false := by
  simp only [reqconvProgram, List.forall_mem_append]
  exact ⟨wrregProgram_setsUp _ _, by simp [Micro.setsUp]⟩

/-- No operation but INIT sets up anything. -/
theorem programOf_setsUp {i : Instr} (hi : i ≠ .init) (c : Config) : ∀ m ∈ programOf c i, m.setsUp = false := by
  cases i with
  | init => exact absurd rfl hi
  | sendbyte v => exact sendByteProgram_setsUp _
  | recvbyte => exact recvByteProgram_setsUp
  | wrreg a v => exact wrregProgram_setsUp _ _
  | rdregs a n => exact rdregsProgram_setsUp _ n
  | reqconv => exact reqconvProgram_setsUp c
  | rdcj =>
    simp only [programOf, rdcjProgram, List.forall_mem_append]
    exact ⟨⟨reqconvProgram_setsUp c, rdregsProgram_setsUp _ _⟩, by decide⟩
  | rdtc =>
    simp only [programOf, rdtcProgram, List.forall_mem_append]
    exact ⟨⟨reqconvProgram_setsUp c, rdregsProgram_setsUp _ _⟩, by decide⟩
  | dectc _ _ _ | deccj _ _ _ | faultsel _ => exact fun m hm => nomatch hm

/-- From `s` to `t` no pin is configured and INITED is kept; a direction is lost by an Abort only (R195). -/
structure Quiet (s t : State) : Prop where
  inited : t.inited = s.inited
  dir    : t.dir = s.dir ∨ t.aborted = true
  trace  : ∃ es, t.trace = s.trace ++ es ∧ ∀ e ∈ es, e ≠ .cfgIn ∧ ∀ r, e ≠ .cfgOut r

/-- What leaves directions, INITED and the trace alone is quiet. -/
theorem Quiet.of_eq {s t : State} (hi : t.inited = s.inited) (hd : t.dir = s.dir) (ht : t.trace = s.trace) :
    Quiet s t :=
  ⟨hi, .inl hd, [], by rw [ht, List.append_nil], fun _ he => nomatch he⟩

theorem emit_quiet {p : Port} (hp : (Micro.port p).setsUp = false) (s : State) : Quiet s (emit p s) := by
  rcases emit_cases p s with ⟨-, e⟩ | ⟨-, -, e⟩ | ⟨-, -, e⟩ <;> rw [e]
  case inr.inr => exact ⟨rfl, .inr rfl, [], (List.append_nil _).symm, fun _ he => nomatch he⟩
  all_goals
    cases p with
    | cfgOut _ | cfgIn => cases hp
    | drv _ _ | smp | wait _ => exact ⟨rfl, .inl rfl, [_], rfl, by simp⟩

theorem runMicro_quiet {m : Micro} (hm : m.setsUp = false) (s : State) : Quiet s (runMicro m s) := by
  cases m with
  | port p => exact emit_quiet hm s
  | sample => exact { emit_quiet (p := .smp) rfl s with }
  | setInited => cases hm
  | decodeTc => simp only [runMicro]; split <;> exact .of_eq rfl rfl rfl
  | decodeCj => simp only [runMicro]; split <;> exact .of_eq rfl rfl rfl
  | _ => exact .of_eq rfl rfl rfl

/-- Lines that set up nothing are quiet one after another. -/
theorem runProgram_quiet {ms : List Micro} (hms : ∀ m ∈ ms, m.setsUp = false) (s : State) :
    Quiet s (runProgram ms s) := by
  induction ms generalizing s with
  | nil => exact .of_eq rfl rfl rfl
  | cons m ms ih =>
    obtain ⟨hm, hms⟩ := List.forall_mem_cons.mp hms
    have hfirst := runMicro_quiet hm s
    rw [runProgram]
    split
    · exact hfirst
    next hgoes =>
      obtain ⟨hinited, hdir, es, htrace, hes⟩ := hfirst
      obtain ⟨hinited', hdir', es', htrace', hes'⟩ := ih hms (runMicro m s)
      refine ⟨hinited'.trans hinited, ?_, es ++ es', ?_, List.forall_mem_append.mpr ⟨hes, hes'⟩⟩
      · have hkept : (runMicro m s).dir = s.dir := hdir.resolve_right hgoes
        exact hdir'.imp_left (·.trans hkept)
      · rw [htrace', htrace, List.append_assoc]

/-- The end of an operation adds nothing to what it did. -/
theorem Quiet.conclude {s t : State} (h : Quiet s t) (i : Instr) : Quiet s (t.conclude (endingOf i)) := by
  obtain ⟨-, hdir, -, hinited, haborted, htrace, -⟩ := conclude_frame i t
  exact ⟨hinited.trans h.inited, by rw [hdir, haborted]; exact h.dir, by rw [htrace]; exact h.trace⟩

theorem exec_quiet {i : Instr} {s t : State} (hi : i ≠ .init) (h : exec i s = .next t) : Quiet s t := by
  obtain ⟨-, raw, q, x, rfl⟩ | ⟨-, -, -, ⟨why, -, rfl⟩ | ⟨-, rfl⟩⟩ := exec_cases h
  · exact .of_eq rfl rfl rfl
  · exact .of_eq rfl rfl rfl
  · have hrun : Quiet s (s.afterRun i) := { runProgram_quiet (programOf_setsUp hi s.config) (s.accept i) with }
    exact hrun.conclude i

theorem tick_quiet {op : Instr} (hop : op ≠ .init) (k : Nat) (s : State) : Quiet s (tick op k s) := by
  rcases tick_cases op k s with e | ⟨ms, hms, e⟩
  · exact e ▸ (Quiet.of_eq rfl rfl rfl : Quiet s s).conclude op
  · have hrun := runProgram_quiet (fun m hm => programOf_setsUp hop s.config m (hms hm)) s
    rw [e, State.conclude]
    split
    · exact { hrun with }
    · exact hrun

/-- A step that does not work on INIT is quiet. -/
theorem step_quiet {s t : State} (hserves : ¬ ServesInit s) (h : step s = .next t) : Quiet s t := by
  obtain ⟨-, ⟨op, k, hq, rfl⟩ | ⟨-, d, x, -, rfl⟩ | ⟨-, -, -, rfl⟩ | ⟨hq, hp, r, rest, hr, hserved⟩⟩ := step_cases h
  · refine tick_quiet ?_ k s
    rintro rfl
    exact hserves (.inl ⟨k, hq⟩)
  · exact .of_eq rfl rfl rfl
  · exact .of_eq rfl rfl rfl
  · rcases hserved with ⟨i, hi, hexec⟩ | ⟨-, -, rfl⟩
    · have hne : i ≠ .init := by
        rintro rfl
        exact hserves (.inr ⟨hq, hp, r, rest, hr, hi⟩)
      exact { exec_quiet hne hexec with }
    · exact .of_eq rfl rfl rfl

/-- A quiet change read off the events that are new. -/
theorem Quiet.events {s t : State} (h : Quiet s t) :
    (∀ e ∈ t.trace.drop s.trace.length, e ≠ .cfgIn ∧ ∀ r, e ≠ .cfgOut r) ∧ (t.dir = s.dir ∨ t.aborted = true) := by
  obtain ⟨-, hdir, es, htrace, hes⟩ := h
  rw [htrace, List.drop_left]
  exact ⟨hes, hdir⟩

/-- Settles O46: every line that configures a pin is INIT's. -/
theorem onlyInitConfiguresPins : Obligations.OnlyInitConfiguresPins :=
  ⟨fun _ _ _ hi h => (exec_quiet hi h).events, fun _ _ h hserves => (step_quiet hserves h).events⟩

/-! ### INITED -/

/-- No line clears INITED (R25). -/
theorem runMicro_keeps_inited {s : State} (h : s.inited = true) (m : Micro) : (runMicro m s).inited = true := by
  cases hm : m.setsUp with
  | false => exact (runMicro_quiet hm s).inited.trans h
  | true =>
    cases m with
    | port p => rcases emit_cases p s with ⟨-, e⟩ | ⟨-, -, e⟩ | ⟨-, -, e⟩ <;> rw [runMicro, e] <;> cases p <;> exact h
    | setInited => rfl
    | _ => cases hm

theorem runProgram_keeps_inited {s : State} (h : s.inited = true) (ms : List Micro) :
    (runProgram ms s).inited = true := by
  induction ms generalizing s with
  | nil => exact h
  | cons m ms ih =>
    rw [runProgram]
    split
    · exact runMicro_keeps_inited h m
    · exact ih (runMicro_keeps_inited h m)

theorem conclude_keeps_inited {s : State} (h : s.inited = true) (i : Instr) :
    (s.conclude (endingOf i)).inited = true := by
  obtain ⟨-, -, -, hinited, -⟩ := conclude_frame i s
  exact hinited.trans h

theorem exec_keeps_inited {i : Instr} {s t : State} (h : exec i s = .next t) (hs : s.inited = true) :
    t.inited = true := by
  obtain ⟨-, raw, q, x, rfl⟩ | ⟨-, -, -, ⟨why, -, rfl⟩ | ⟨-, rfl⟩⟩ := exec_cases h
  · exact hs
  · exact hs
  · exact conclude_keeps_inited (runProgram_keeps_inited (s := s.accept i) hs _) i

theorem tick_keeps_inited (op : Instr) (k : Nat) {s : State} (hs : s.inited = true) : (tick op k s).inited = true := by
  rcases tick_cases op k s with e | ⟨ms, -, e⟩
  · exact e ▸ conclude_keeps_inited hs op
  · rw [e, State.conclude]
    split <;> exact runProgram_keeps_inited hs ms

/-- No step changes the configuration (R20) or clears INITED (R25). -/
theorem step_config_inited {s t : State} (h : step s = .next t) :
    t.config = s.config ∧ (s.inited = true → t.inited = true) := by
  obtain ⟨-, ⟨op, k, -, rfl⟩ | ⟨-, d, x, -, rfl⟩ | ⟨-, -, -, rfl⟩ | ⟨-, -, r, rest, -, hserved⟩⟩ := step_cases h
  · exact ⟨(tick_frame op k s).1, tick_keeps_inited op k⟩
  · exact ⟨rfl, id⟩
  · exact ⟨rfl, id⟩
  · rcases hserved with ⟨i, hi, hexec⟩ | ⟨-, -, rfl⟩
    · have hconfig := exec_config hexec
      exact ⟨hconfig, fun hs => exec_keeps_inited hexec hs⟩
    · exact ⟨rfl, id⟩

/-- Settles O43: a step that does not work on INIT leaves INITED as it is. -/
theorem configurationAndInitedAreLasting : Obligations.ConfigurationAndInitedAreLasting := by
  intro s t h
  obtain ⟨hconfig, hkeeps⟩ := step_config_inited h
  refine ⟨hconfig, hkeeps, fun hs ht => ?_⟩
  by_contra hserves
  have hsame := (step_quiet hserves h).inited
  rw [hs, ht] at hsame
  cases hsame

/-! ### The trace and the responses -/

theorem runProgram_trace_grows (ms : List Micro) (s : State) : s.trace <+: (runProgram ms s).trace := by
  obtain ⟨es, htrace, -⟩ := runProgram_samples ms s
  exact ⟨es, htrace.symm⟩

theorem conclude_grows (i : Instr) (s : State) :
    s.trace <+: (s.conclude (endingOf i)).trace ∧ s.responses <+: (s.conclude (endingOf i)).responses := by
  obtain ⟨-, -, -, -, -, htrace, -⟩ := conclude_frame i s
  refine ⟨htrace ▸ List.prefix_rfl, ?_⟩
  rw [State.conclude]
  split
  · exact List.prefix_append _ _
  · obtain e | ⟨r, -, -, e⟩ := endingOf_cases i s <;> rw [e]
    · exact List.prefix_rfl
    · exact List.prefix_append _ _

theorem exec_grows {i : Instr} {s t : State} (h : exec i s = .next t) :
    s.trace <+: t.trace ∧ s.responses <+: t.responses := by
  obtain ⟨-, raw, q, x, rfl⟩ | ⟨-, -, -, ⟨why, -, rfl⟩ | ⟨-, rfl⟩⟩ := exec_cases h
  · exact ⟨List.prefix_rfl, List.prefix_rfl⟩
  · exact ⟨List.prefix_rfl, List.prefix_append _ _⟩
  · obtain ⟨htrace, hresponses⟩ := conclude_grows i (s.afterRun i)
    rw [afterRun_responses] at hresponses
    exact ⟨(runProgram_trace_grows _ (s.accept i)).trans htrace, hresponses⟩

theorem tick_grows (op : Instr) (k : Nat) (s : State) :
    s.trace <+: (tick op k s).trace ∧ s.responses <+: (tick op k s).responses := by
  rcases tick_cases op k s with e | ⟨ms, -, e⟩
  · exact e ▸ conclude_grows op s
  · have hresponses : (runProgram ms s).responses = s.responses := (runProgram_frame ms s).2.1
    rw [e, State.conclude]
    split
    · exact ⟨runProgram_trace_grows ms s, _, congrArg (· ++ [_]) hresponses.symm⟩
    · exact ⟨runProgram_trace_grows ms s, hresponses ▸ List.prefix_rfl⟩

/-- Settles O45, one case of the step at a time. -/
theorem traceOnlyGrows : Obligations.TraceOnlyGrows := by
  intro s t h
  obtain ⟨-, ⟨op, k, -, rfl⟩ | ⟨-, d, x, -, rfl⟩ | ⟨-, -, -, rfl⟩ | ⟨-, -, r, rest, -, hserved⟩⟩ := step_cases h
  · exact tick_grows op k s
  · exact ⟨List.prefix_rfl, List.prefix_rfl⟩
  · exact ⟨List.prefix_rfl, List.prefix_rfl⟩
  · rcases hserved with ⟨i, -, hexec⟩ | ⟨-, -, rfl⟩
    · have hgrows := exec_grows hexec
      exact hgrows
    · exact ⟨List.prefix_rfl, List.prefix_append _ _⟩

end Sys2Proof.Machine
end

section
/-! SUPPORT. Runs that fail (60_exceptions.md R195), and runs moved one port event at a time (10_state.md R24, R25). -/

namespace Sys2Proof.Machine

/-! ### A failing port event -/

/-- A run that did not fail emitted every port request of its lines, in order. -/
theorem runProgram_trace {ms : List Micro} {s : State} (h : (runProgram ms s).aborted = false) :
    (runProgram ms s).trace.map eventPort = s.trace.map eventPort ++ portsOf ms := by
  induction ms generalizing s with
  | nil => simp [portsOf]
  | cons m ms ih =>
    rw [runProgram] at h ⊢
    split at h
    next hm => exact absurd (hm.symm.trans h) (by decide)
    next hm =>
      rw [if_neg hm, ih h, runMicro_trace (by simpa using hm), portsOf_cons, List.append_assoc]

/-- The index of the first failing event is one only. -/
theorem first_failure_unique {s : State} {j k : Nat} (hj : ∀ i < j, s.failsAt i = false) (hj' : s.failsAt j = true)
    (hk : ∀ i < k, s.failsAt i = false) (hk' : s.failsAt k = true) : j = k := by
  rcases Nat.lt_trichotomy j k with hlt | heq | hgt
  · exact absurd (hj'.symm.trans (hk j hlt)) (by decide)
  · exact heq
  · exact absurd (hk'.symm.trans (hj k hgt)) (by decide)

/-- What has port events is an operation. -/
theorem isOperation_of_ports {i : Instr} {c : Config} (h : portsOf (programOf c i) ≠ []) : i.isOperation = true := by
  cases i with
  | dectc _ _ _ | deccj _ _ _ | faultsel _ => exact absurd rfl h
  | _ => rfl

/-- An operation whose run fails answers the Abort (R195). -/
theorem exec_failed {i : Instr} {s : State} (hop : i.isOperation = true) (ha : s.aborted = false) (hb : s.busy = false)
    (hc : admission i s = none) (h : (s.afterRun i).aborted = true) : exec i s = .next (s.afterRun i).takeAbort := by
  rw [exec_operation hop, performOp, if_neg (by simp [ha]), if_neg (by simp [hb]), hc, State.conclude, if_pos h]

/-- Settles O32: a run fails exactly where one of its events does, and is aborted with the events before it. -/
theorem failedPrimitiveAborts : Obligations.FailedPrimitiveAborts := by
  constructor
  · intro i s k ha hb hcan hc hbefore hfails hk
    have hfailed : (s.afterRun i).aborted = true := runProgram_fails (s := s.accept i) hcan hfails hk
    have hop : i.isOperation = true := isOperation_of_ports (List.ne_nil_of_length_pos (Nat.zero_lt_of_lt hk))
    obtain ⟨-, hdir, hlvl, j, -, hbefore', hfails', htrace⟩ := runProgram_failed (s := s.accept i) ha hfailed
    obtain rfl : j = k := first_failure_unique hbefore' hfails' hbefore hfails
    obtain ⟨es, hes, hsamples, -⟩ := runProgram_samples (programOf s.config i) (s.accept i)
    have hports : es.map eventPort = (portsOf (programOf s.config i)).take j := by
      rw [hes, List.map_append] at htrace
      exact List.append_cancel_left htrace
    exact ⟨_, es, exec_failed hop ha hb hc hfailed, hfailed, ⟨hdir, hlvl⟩, rfl, rfl,
      congrArg (· ++ [_]) (afterRun_responses s i), hes, hports, hsamples⟩
  · intro i s t ha h ht
    cases hop : i.isOperation with
    | false =>
      obtain ⟨raw, q, x, e⟩ := exec_function hop s
      obtain rfl := Host.Outcome.next.inj (h.symm.trans e)
      exact absurd (ht.symm.trans ha) (by decide)
    | true =>
      obtain ⟨-, -, ⟨why, -, rfl⟩ | ⟨-, hfailed, rfl⟩ | ⟨-, hran, r, -, -, rfl⟩⟩ := exec_operation_cases hop h
      · exact absurd (ht.symm.trans ha) (by decide)
      · obtain ⟨hcan, hdir, hlvl, hfirst⟩ := runProgram_failed (s := s.accept i) ha hfailed
        exact ⟨hcan, ⟨hdir, hlvl⟩, rfl, rfl, congrArg (· ++ [_]) (afterRun_responses s i), hfirst⟩
      · exact absurd (ht.symm.trans hran) (by decide)

/-! ### One port event at a time -/

/-- INIT sets INITED on its last line (R142). -/
theorem initProgram_eq (c : Config) :
    initProgram c = (c.initOrder.map .port ++ wrregProgram Config.cr1Addr Config.cr1Value) ++ [.setInited] := rfl

/-- One line alone sets INITED (R25). -/
theorem runMicro_inited_of_ne {m : Micro} (h : m ≠ .setInited) (s : State) : (runMicro m s).inited = s.inited := by
  cases m with
  | port p => rcases emit_cases p s with ⟨-, e⟩ | ⟨-, -, e⟩ | ⟨-, -, e⟩ <;> rw [runMicro, e] <;> cases p <;> rfl
  | setInited => exact absurd rfl h
  | _ => exact (runMicro_quiet rfl s).inited

theorem runProgram_inited_of_not_mem {ms : List Micro} (h : Micro.setInited ∉ ms) (s : State) :
    (runProgram ms s).inited = s.inited := by
  induction ms generalizing s with
  | nil => rfl
  | cons m ms ih =>
    obtain ⟨hhead, htail⟩ := not_or.mp (List.mem_cons.not.mp h)
    have hm := runMicro_inited_of_ne (Ne.symm hhead) s
    rw [runProgram]
    split
    · exact hm
    · rw [ih htail, hm]

/-- INIT's run sets INITED where it does not fail. -/
theorem run_init_inited {s : State} (h : (runProgram (initProgram s.config) s).aborted = false)
    (ha : s.aborted = false) : (runProgram (initProgram s.config) s).inited = true := by
  rw [initProgram_eq, runProgram_append_cases ha] at h ⊢
  split at h
  next hfailed => exact absurd (hfailed.symm.trans h) (by decide)
  next hran =>
    rw [if_neg hran, runProgram_cons_of_not_aborted (by exact Bool.eq_false_of_not_eq_true hran)]
    rfl

/-- A beginning of INIT's program that is not the whole of it stops before INITED is set. -/
theorem setInited_not_mem {c : Config} {done rest : List Micro} (h : done ++ rest = initProgram c) (hrest : rest ≠ []) :
    Micro.setInited ∉ done := by
  obtain ⟨front, last, rfl⟩ := List.eq_nil_or_concat' rest |>.resolve_left hrest
  rw [← List.append_assoc, initProgram_eq] at h
  obtain ⟨hfront, -⟩ := List.append_inj' h rfl
  have hnot : Micro.setInited ∉ c.initOrder.map .port ++ wrregProgram Config.cr1Addr Config.cr1Value := by
    rw [List.mem_append]
    rintro (hmem | hmem)
    · obtain ⟨p, -, hp⟩ := List.mem_map.mp hmem
      cases hp
    · exact absurd (wrregProgram_setsUp _ _ _ hmem) (by decide)
  exact fun hmem => hnot (hfront ▸ List.mem_append_left front hmem)

/-- Settles O39: after `k` moves the lines of the first `k` events have run, and after the last event all of them. -/
theorem sequencerRunsTheOperation : Obligations.SequencerRunsTheOperation := by
  intro i s ha hb hf hc hne
  have ha' : (s.accept i).aborted = false := ha
  have hf' : (s.accept i).config.portCanFail = false := hf
  refine ⟨fun k hk => ?_, ?_⟩
  · obtain ⟨done, rest, hprogram, hcount, hleft, hall, hrun⟩ := run_events hf ha hne hk
    have hran := runProgram_aborted hf' ha' done
    obtain ⟨-, hresponses, hbusy, -⟩ := runProgram_frame done (s.accept i)
    refine ⟨_, hrun, ?_, hbusy, hresponses, ?_, fun hi => ?_, fun hi => ?_⟩
    · rw [runProgram_seq done hf' ha' (op := i) (k := 0) rfl, hcount, Nat.zero_add]
    · rw [runProgram_trace hran, ← hprogram, portsOf_append, List.take_left' hcount]
      rfl
    · subst hi
      rcases Nat.eq_or_lt_of_le hk with hlast | hmore
      · have hwhole : done = initProgram s.config := by
          rw [← List.append_nil done, ← hall hlast]
          exact hprogram
        subst hwhole
        exact iff_of_true (run_init_inited (s := s.accept .init) hran ha) hlast
      · have hrest : rest ≠ [] := by
          rintro rfl
          rw [List.append_nil] at hprogram
          rw [hprogram] at hcount
          omega
        rw [runProgram_inited_of_not_mem (setInited_not_mem hprogram hrest), State.accept_inited,
          (admission_init.mp hc).2]
        exact iff_of_false Bool.false_ne_true (Nat.ne_of_lt hmore)
    · refine (runProgram_quiet (fun m hm => programOf_setsUp hi s.config m ?_) (s.accept i)).inited
      exact hprogram ▸ List.mem_append_left rest hm
  · exact (run_sequencer hf ha hne).trans (exec_admitted (isOperation_of_ports hne) ha hb hf hc).symm

end Sys2Proof.Machine
end

section
/-! SUPPORT. The port requests of the operations, counted: how many events, how many clock cycles, and how the clock and
chip-select alternate (10_state.md R24, 40_channel.md R121, R122). -/

namespace Sys2Proof.Machine

/-! ### Pulses -/

/-- `n` times a level and then its opposite. -/
def pulses (b : Level) (n : Nat) : List Level := (List.replicate n [b, !b]).flatten

@[simp] theorem pulses_zero (b : Level) : pulses b 0 = [] := rfl

theorem pulses_succ (b : Level) (n : Nat) : pulses b (n + 1) = b :: (!b) :: pulses b n := rfl

theorem pulses_append (b : Level) (m n : Nat) : pulses b m ++ pulses b n = pulses b (m + n) := by
  rw [pulses, pulses, ← List.flatten_append, List.replicate_append_replicate, pulses]

theorem count_true_pulses (n : Nat) : (pulses true n).count true = n := by
  induction n with
  | zero => rfl
  | succ n ih => simp [pulses_succ, ih]

theorem head?_pulses {b x : Level} {n : Nat} (h : x ∈ (pulses b n).head?) : x = b := by
  cases n with
  | zero => cases h
  | succ n => exact (Option.mem_some_iff.mp h).symm

theorem isChain_pulses (b : Level) (n : Nat) : (pulses b n).IsChain (· ≠ ·) := by
  induction n with
  | zero => exact .nil
  | succ n ih =>
    rw [pulses_succ, List.isChain_cons_cons]
    refine ⟨by simp, List.isChain_cons.mpr ⟨fun x hx => ?_, ih⟩⟩
    rw [head?_pulses hx]
    simp

/-- Pulses after a line at rest leave it at rest. -/
theorem getLast?_append_pulses {l : List Level} {b : Level} (h : l.getLast? = some (!b)) (n : Nat) :
    (l ++ pulses b n).getLast? = some (!b) := by
  induction n generalizing l with
  | zero => simpa using h
  | succ n ih =>
    rw [pulses_succ, List.append_cons, List.append_cons]
    exact ih (by simp)

/-- Pulses after a line at rest go on alternating. -/
theorem isChain_append_pulses {l : List Level} {b : Level} (hl : l.IsChain (· ≠ ·)) (h : l.getLast? = some (!b))
    (n : Nat) : (l ++ pulses b n).IsChain (· ≠ ·) := by
  refine List.isChain_append.mpr ⟨hl, isChain_pulses b n, fun x hx y hy => ?_⟩
  rw [h, Option.mem_some_iff] at hx
  rw [← hx, head?_pulses hy]
  simp

/-! ### The drives among port requests -/

/-- The level a request drives a role to, if it does. -/
def driveOf (r : OutRole) : Port → Option Level
  | .drv q l => if q = r then some l else none
  | _ => none

/-- The level of each drive of a role among port requests, in order. -/
def portDrives (r : OutRole) (ps : List Port) : List Level := ps.filterMap (driveOf r)

@[simp] theorem portDrives_append (r : OutRole) (ps qs : List Port) :
    portDrives r (ps ++ qs) = portDrives r ps ++ portDrives r qs :=
  List.filterMap_append

/-- The drives of an event list are those of the requests it answers. -/
theorem drivesOf_eq_portDrives (r : OutRole) (es : List Event) : drivesOf r es = portDrives r (es.map eventPort) := by
  induction es with
  | nil => rfl
  | cons e es ih =>
    rw [List.map_cons, portDrives, List.filterMap_cons]
    cases e with
    | drv q l =>
      simp only [drivesOf, eventPort, driveOf]
      split <;> rw [ih] <;> rfl
    | _ => exact ih

theorem portsOf_map_port (ps : List Port) : portsOf (ps.map .port) = ps := by
  induction ps with
  | nil => rfl
  | cons p ps ih => rw [List.map_cons, portsOf_cons, ih]; rfl

/-- A legal set-up order drives each role once (R141). -/
theorem portDrives_initOrder {c : Config} (h : c.wf = true) (r : OutRole) :
    portDrives r c.initOrder = portDrives r Config.defaultInitOrder := by
  have hone : ∃ l, portDrives r Config.defaultInitOrder = [l] := by cases r <;> exact ⟨_, rfl⟩
  obtain ⟨l, hl⟩ := hone
  simp only [Config.wf, Bool.and_eq_true] at h
  obtain ⟨⟨⟨hperm, -⟩, -⟩, -⟩ := h
  rw [hl]
  exact List.perm_singleton.mp (hl ▸ (List.isPerm_iff.mp hperm).filterMap (driveOf r))

/-! ### Each operation's requests -/

@[simp] theorem clk_sendByte (v : Byte) : portDrives .clk (portsOf (sendByteProgram v)) = pulses true 8 := rfl

@[simp] theorem cs_sendByte (v : Byte) : portDrives .cs (portsOf (sendByteProgram v)) = [] := rfl

@[simp] theorem clk_recvBytes (n : Nat) : portDrives .clk (portsOf (recvBytesProgram n)) = pulses true (8 * n) := by
  induction n with
  | zero => rfl
  | succ n ih =>
    rw [recvBytesProgram, portsOf_append, portDrives_append, ih, Nat.mul_succ, Nat.add_comm, ← pulses_append]
    rfl

@[simp] theorem cs_recvBytes (n : Nat) : portDrives .cs (portsOf (recvBytesProgram n)) = [] := by
  induction n with
  | zero => rfl
  | succ n ih => rw [recvBytesProgram, portsOf_append, portDrives_append, ih]; rfl

@[simp] theorem clk_wrreg (a : Address) (v : Byte) : portDrives .clk (portsOf (wrregProgram a v)) = pulses true 16 :=
  rfl

@[simp] theorem cs_wrreg (a : Address) (v : Byte) : portDrives .cs (portsOf (wrregProgram a v)) = pulses false 1 := rfl

@[simp] theorem clk_rdregs (a : Address) (n : Nat) :
    portDrives .clk (portsOf (rdregsProgram a n)) = pulses true (8 + 8 * n) := by
  simp only [rdregsProgram, portsOf_append, portDrives_append, clk_sendByte, clk_recvBytes, ← pulses_append]
  simp [portsOf, microPort, portDrives, driveOf]

@[simp] theorem cs_rdregs (a : Address) (n : Nat) :
    portDrives .cs (portsOf (rdregsProgram a n)) = pulses false 1 := by
  simp only [rdregsProgram, portsOf_append, portDrives_append, cs_sendByte, cs_recvBytes]
  rfl

@[simp] theorem clk_reqconv (c : Config) : portDrives .clk (portsOf (reqconvProgram c)) = pulses true 16 := rfl

@[simp] theorem cs_reqconv (c : Config) : portDrives .cs (portsOf (reqconvProgram c)) = pulses false 1 := rfl

/-- The clock cycles of an operation (R240). -/
def cyclesOf : Instr → Nat
  | .init => 16
  | .sendbyte _ => 8
  | .recvbyte => 8
  | .wrreg _ _ => 16
  | .rdregs _ n => 8 + 8 * n
  | .reqconv => 16
  | .rdcj => 48
  | .rdtc => 56
  | _ => 0

/-- The transactions of an operation (R117, R118). -/
def framesOf : Instr → Nat
  | .wrreg _ _ => 1
  | .rdregs _ _ => 1
  | .reqconv => 1
  | .rdcj => 2
  | .rdtc => 2
  | _ => 0

/-- The number of port events of an operation (R24). -/
def eventCountOf : Instr → Nat
  | .init => 57
  | .sendbyte _ => 24
  | .recvbyte => 24
  | .wrreg _ _ => 50
  | .rdregs _ n => 26 + 24 * n
  | .reqconv => 51
  | .rdcj => 149
  | .rdtc => 173
  | _ => 0

/-- No operation but INIT leaves the clock other than it found it. -/
theorem clk_programOf {i : Instr} (hi : i ≠ .init) (c : Config) :
    portDrives .clk (portsOf (programOf c i)) = pulses true (cyclesOf i) := by
  cases i with
  | init => exact absurd rfl hi
  | rdregs a n => exact clk_rdregs _ n
  | rdcj =>
    simp only [programOf, rdcjProgram, portsOf_append, portDrives_append, clk_reqconv, clk_rdregs, pulses_append]
    rfl
  | rdtc =>
    simp only [programOf, rdtcProgram, portsOf_append, portDrives_append, clk_reqconv, clk_rdregs, pulses_append]
    rfl
  | _ => rfl

/-- Chip-select is asserted and deasserted once for each transaction. -/
theorem cs_programOf {i : Instr} (hi : i ≠ .init) (c : Config) :
    portDrives .cs (portsOf (programOf c i)) = pulses false (framesOf i) := by
  cases i with
  | init => exact absurd rfl hi
  | rdregs a n => exact cs_rdregs _ n
  | rdcj =>
    simp only [programOf, rdcjProgram, portsOf_append, portDrives_append, cs_reqconv, cs_rdregs, pulses_append]
    rfl
  | rdtc =>
    simp only [programOf, rdtcProgram, portsOf_append, portDrives_append, cs_reqconv, cs_rdregs, pulses_append]
    rfl
  | _ => rfl

/-- INIT drives each role to its level at rest and then sends the mode write (R141, R142). -/
theorem portDrives_init {c : Config} (h : c.wf = true) (r : OutRole) :
    portDrives r (portsOf (programOf c .init)) = portDrives r Config.defaultInitOrder ++
      portDrives r (portsOf (wrregProgram Config.cr1Addr Config.cr1Value)) := by
  simp only [programOf, initProgram, portsOf_append, portsOf_map_port, portDrives_append, portDrives_initOrder h]
  exact List.append_nil _

/-- INIT brings the clock to rest once, before the mode write. -/
theorem clk_init {c : Config} (h : c.wf = true) :
    portDrives .clk (portsOf (programOf c .init)) = [false] ++ pulses true 16 := by
  rw [portDrives_init h, clk_wrreg]
  rfl

/-- INIT brings chip-select to rest once, before the mode write. -/
theorem cs_init {c : Config} (h : c.wf = true) :
    portDrives .cs (portsOf (programOf c .init)) = [true] ++ pulses false 1 := by
  rw [portDrives_init h, cs_wrreg]
  rfl

theorem length_portsOf_rdregs (a : Address) (n : Nat) : (portsOf (rdregsProgram a n)).length = 26 + 24 * n := by
  simp only [rdregsProgram, portsOf_append, List.length_append, length_portsOf_recvBytes]
  simp only [show (portsOf [Micro.port (.drv .cs false)]).length = 1 from rfl,
    show (portsOf (sendByteProgram (readCommand a))).length = 24 from rfl,
    show (portsOf [Micro.setBytecnt n]).length = 0 from rfl,
    show (portsOf [Micro.port (.drv .cs true)]).length = 1 from rfl]
  omega

theorem length_portsOf_init {c : Config} (h : c.wf = true) :
    (portsOf (programOf c .init)).length = eventCountOf .init := by
  rw [programOf, initProgram, portsOf_append, portsOf_append, portsOf_map_port, List.length_append,
    List.length_append, setup_length h]
  rfl

theorem length_portsOf_programOf {i : Instr} (hi : i ≠ .init) (c : Config) :
    (portsOf (programOf c i)).length = eventCountOf i := by
  cases i with
  | init => exact absurd rfl hi
  | rdregs a n => exact length_portsOf_rdregs _ n
  | rdcj =>
    rw [programOf, rdcjProgram, portsOf_append, portsOf_append, List.length_append, List.length_append,
      length_portsOf_rdregs]
    rfl
  | rdtc =>
    rw [programOf, rdtcProgram, portsOf_append, portsOf_append, List.length_append, List.length_append,
      length_portsOf_rdregs]
    rfl
  | _ => rfl

/-! ### The events an operation adds to the trace -/

/-- A run adds the events of its port requests, all of them where it does not fail. -/
theorem afterRun_events {s : State} (i : Instr) (ha : s.aborted = false) :
    ∃ es left, (s.afterRun i).trace = s.trace ++ es ∧ es.map eventPort ++ left = portsOf (programOf s.config i) ∧
      ((s.afterRun i).aborted = false → left = []) := by
  obtain ⟨es, htrace, -⟩ := runProgram_samples (programOf s.config i) (s.accept i)
  rw [State.accept_trace] at htrace
  have hports : ∀ ps, (s.afterRun i).trace.map eventPort = s.trace.map eventPort ++ ps → es.map eventPort = ps :=
    fun ps h => List.append_cancel_left (by rw [← h, htrace, List.map_append])
  cases hrun : (s.afterRun i).aborted with
  | false => exact ⟨es, [], htrace, by rw [List.append_nil, hports _ (runProgram_trace hrun)], fun _ => rfl⟩
  | true =>
    obtain ⟨-, -, -, k, -, -, -, htaken⟩ := runProgram_failed (s := s.accept i) ha hrun
    exact ⟨es, _, htrace, by rw [hports _ htaken, List.take_append_drop], fun h => nomatch h⟩

/-- The events and clock cycles of an operation that answers on a port that does not fail. -/
theorem exec_counts {i : Instr} {s : State} (hop : i.isOperation = true) (ha : s.aborted = false)
    (hb : s.busy = false) (hf : s.config.portCanFail = false) (hc : admission i s = none) :
    ∃ t, exec i s = .next t ∧ t.trace.length = s.trace.length + (portsOf (programOf s.config i)).length ∧
      clockCycles (t.trace.drop s.trace.length) = (portDrives .clk (portsOf (programOf s.config i))).count true := by
  have hrun : (s.afterRun i).aborted = false := runProgram_aborted (s := s.accept i) hf ha _
  obtain ⟨es, left, htrace, hports, hall⟩ := afterRun_events i ha
  rw [hall hrun, List.append_nil] at hports
  obtain ⟨r, -, -, hend⟩ := endingOf_afterRun hop ha hrun
  refine ⟨(s.afterRun i).respond r, hend ▸ exec_admitted hop ha hb hf hc, ?_, ?_⟩
  · rw [State.respond_trace, htrace, List.length_append, ← hports, List.length_map]
  · rw [State.respond_trace, htrace, List.drop_left, clockCycles, drivesOf_eq_portDrives, hports]

/-- Settles O40: the port requests of each program, counted. -/
theorem eventsAndClockCyclesPerOperation : Obligations.EventsAndClockCyclesPerOperation := by
  constructor
  · intro s hs
    obtain ⟨ha, hb, hinited, hf, hpins, hwf⟩ := hs
    obtain ⟨t, ht, hlen, hcycles⟩ := exec_counts (i := .init) rfl ha hb hf (admission_init.mpr ⟨hpins, hinited⟩)
    rw [length_portsOf_init hwf] at hlen
    rw [clk_init hwf, List.count_append, count_true_pulses] at hcycles
    exact ⟨t, ht, hlen, hcycles⟩
  · intro s hs i events cycles hc hcounts
    obtain ⟨ha, hb, hinited, hf⟩ := hs
    have hi := ne_init_of_admission hc hinited
    have hcounted : i.isOperation = true ∧ events = eventCountOf i ∧ cycles = cyclesOf i := by
      cases i with
      | init | dectc _ _ _ | deccj _ _ _ | faultsel _ => exact hcounts.elim
      | _ => exact ⟨rfl, hcounts⟩
    obtain ⟨hop, rfl, rfl⟩ := hcounted
    obtain ⟨t, ht, hlen, hcycles⟩ := exec_counts hop ha hb hf hc
    rw [length_portsOf_programOf hi] at hlen
    rw [clk_programOf hi, count_true_pulses] at hcycles
    exact ⟨t, ht, hlen, hcycles⟩

end Sys2Proof.Machine
end

section
/-! SUPPORT. The invariants of the block between operations (10_state.md R41, 40_channel.md R121, R122). -/

namespace Sys2Proof.Machine

/-! ### The level of a role is the one last driven -/

/-- Each level is the one last driven on the trace, none where nothing was driven (R26). -/
def LevelsDriven (s : State) : Prop :=
  s.lvl.cs = (drivesOf .cs s.trace).getLast? ∧ s.lvl.clk = (drivesOf .clk s.trace).getLast? ∧
    s.lvl.mosi = (drivesOf .mosi s.trace).getLast?

/-- A port request keeps the levels those last driven. -/
theorem performPort_levelsDriven {s : State} (h : LevelsDriven s) (p : Port) : LevelsDriven (s.performPort p) := by
  obtain ⟨hcs, hclk, hmosi⟩ := h
  cases p with
  | drv r l =>
    cases r <;>
      simp [LevelsDriven, State.performPort, Lvls.set, drivesOf, hcs, hclk, hmosi]
  | _ => simp [LevelsDriven, State.performPort, drivesOf, hcs, hclk, hmosi]

theorem emit_levelsDriven {s : State} (h : LevelsDriven s) {p : Port} (hp : (emit p s).aborted = false) :
    LevelsDriven (emit p s) := by
  rcases emit_cases p s with ⟨-, e⟩ | ⟨-, -, e⟩ | ⟨-, -, e⟩ <;> rw [e] at hp ⊢
  · exact performPort_levelsDriven h p
  · exact performPort_levelsDriven (s := s.spendFailure) h p
  · cases hp

theorem runMicro_levelsDriven {s : State} (h : LevelsDriven s) {m : Micro} (hm : (runMicro m s).aborted = false) :
    LevelsDriven (runMicro m s) := by
  cases m with
  | port p => exact emit_levelsDriven h hm
  | sample => exact emit_levelsDriven h (p := .smp) hm
  | decodeTc => simp only [runMicro]; split <;> exact h
  | decodeCj => simp only [runMicro]; split <;> exact h
  | _ => exact h

theorem runProgram_levelsDriven {ms : List Micro} {s : State} (h : LevelsDriven s)
    (hms : (runProgram ms s).aborted = false) : LevelsDriven (runProgram ms s) := by
  induction ms generalizing s with
  | nil => exact h
  | cons m ms ih =>
    rw [runProgram] at hms ⊢
    split at hms
    next hm => exact absurd (hm.symm.trans hms) (by decide)
    next hm =>
      rw [if_neg hm]
      exact ih (runMicro_levelsDriven h (by simpa using hm)) hms

theorem IdleLines.levelsDriven {s : State} (h : IdleLines s) : LevelsDriven s := by
  obtain ⟨-, -, -, -, hdriven⟩ := h
  exact hdriven

theorem Unbuilt.levelsDriven {s : State} (h : Unbuilt s) : LevelsDriven s := by
  obtain ⟨htrace, -, hlvl⟩ := h
  rw [LevelsDriven, htrace, hlvl]
  exact ⟨rfl, rfl, rfl⟩

/-! ### The lines after an operation -/

/-- An operation other than INIT is admitted on a constructed block only (R95). -/
theorem inited_of_admission {i : Instr} {s : State} (hop : i.isOperation = true) (hi : i ≠ .init)
    (hc : admission i s = none) : s.inited = true := by
  by_contra hn
  rw [admission_not_inited hop hi (by simpa using hn)] at hc
  cases hc

/-- The drives of a run that did not fail, after those before it. -/
theorem drivesOf_afterRun {i : Instr} {s : State} (ha : s.aborted = false) (hrun : (s.afterRun i).aborted = false)
    (r : OutRole) : drivesOf r (s.afterRun i).trace =
      drivesOf r s.trace ++ portDrives r (portsOf (programOf s.config i)) := by
  obtain ⟨es, left, htrace, hports, hall⟩ := afterRun_events i ha
  rw [hall hrun, List.append_nil] at hports
  rw [htrace, drivesOf_append, drivesOf_eq_portDrives r es, hports]

/-- The lines after an operation of a constructed block that did not fail (R41). -/
theorem afterRun_idleLines {i : Instr} {s : State} (hi : i ≠ .init) (ha : s.aborted = false)
    (hs : IdleLines s) (hrun : (s.afterRun i).aborted = false) : IdleLines (s.afterRun i) := by
  obtain ⟨hcs, hclk, hmosi⟩ := runProgram_levelsDriven (s := s.accept i) hs.levelsDriven hrun
  obtain ⟨hcs0, hclk0, hdir0, hmosi0, hcsl, hclkl, hmosil⟩ := hs
  have hdir : (s.afterRun i).dir = s.dir := by
    have hquiet := runProgram_quiet (programOf_setsUp hi s.config) (s.accept i)
    exact hquiet.dir.resolve_right (by simp [hrun])
  refine ⟨?_, ?_, hdir.trans hdir0, ?_, hcs, hclk, hmosi⟩
  · rw [hcs, drivesOf_afterRun ha hrun, cs_programOf hi]
    exact getLast?_append_pulses (b := false) (hcsl.symm.trans hcs0) _
  · rw [hclk, drivesOf_afterRun ha hrun, clk_programOf hi]
    exact getLast?_append_pulses (b := true) (hclkl.symm.trans hclk0) _
  · rw [hmosi, drivesOf_afterRun ha hrun]
    rw [hmosil, ne_eq, List.getLast?_eq_none_iff] at hmosi0
    simp [hmosi0]

/-- The lines after INIT where it did not fail (R41, R142). -/
theorem afterRun_init_idleLines {s : State} (ha : s.aborted = false) (hwf : s.config.wf = true) (hs : Unbuilt s)
    (hrun : (s.afterRun .init).aborted = false) : IdleLines (s.afterRun .init) := by
  obtain ⟨hcs, hclk, hmosi⟩ := runProgram_levelsDriven (s := s.accept .init) hs.levelsDriven hrun
  have hdir : (s.afterRun .init).dir =
      { cs := some .out, clk := some .out, mosi := some .out, miso := some .input } := by
    have hsound := afterRun_soundPort hrun [] 0
    have hinit := run_init (s := (s.accept .init).soundPort [] 0) rfl ha hwf
    exact congrArg State.dir (hsound.symm.trans hinit)
  obtain ⟨htrace, -, -⟩ := hs
  refine ⟨?_, ?_, hdir, ?_, hcs, hclk, hmosi⟩
  · rw [hcs, drivesOf_afterRun ha hrun, htrace, cs_init hwf]
    exact getLast?_append_pulses (l := [true]) (b := false) rfl 1
  · rw [hclk, drivesOf_afterRun ha hrun, htrace, clk_init hwf]
    exact getLast?_append_pulses (l := [false]) (b := true) rfl 16
  · rw [hmosi, drivesOf_afterRun ha hrun, htrace, portDrives_init hwf]
    exact Option.some_ne_none _

/-! ### The idle invariant -/

/-- A response leaves the lines as they are. -/
theorem IdleLines.respond {s : State} (h : IdleLines s) (r : Response) : IdleLines (s.respond r) := h

theorem NoLevels.respond {s : State} (h : NoLevels s) (r : Response) : NoLevels (s.respond r) := h

/-- A response leaves the block between operations (R24, R40). -/
theorem betweenOps_respond (s : State) (r : Response) : BetweenOps (s.respond r) :=
  ⟨rfl, rfl, rfl, rfl, rfl, rfl, rfl, rfl, rfl, rfl⟩

/-- INITED after an operation that did not fail: the block is constructed (R25). -/
theorem afterRun_inited {i : Instr} {s : State} (hop : i.isOperation = true) (ha : s.aborted = false)
    (hc : admission i s = none) (hrun : (s.afterRun i).aborted = false) : (s.afterRun i).inited = true := by
  by_cases hi : i = .init
  · subst hi
    exact run_init_inited (s := s.accept .init) hrun ha
  · exact runProgram_keeps_inited (s := s.accept i) (inited_of_admission hop hi hc) _

/-- Every operation keeps the idle invariant, whatever the environment and the port do. -/
theorem exec_keeps_idleInv {i : Instr} {s t : State} (hop : i.isOperation = true) (h : IdleInv s)
    (hexec : exec i s = .next t) : IdleInv t := by
  have hconfig : t.config = s.config := exec_config hexec
  obtain ⟨hwf, hbetween, haborted, hunbuilt, hlines⟩ := h
  have hwf' : t.config.wf = true := by rw [hconfig, hwf]
  obtain ⟨ha, -, ⟨why, -, rfl⟩ | ⟨-, hfailed, rfl⟩ | ⟨hc, hran, r, -, -, rfl⟩⟩ := exec_operation_cases hop hexec
  · exact ⟨hwf, hbetween, haborted, hunbuilt, hlines⟩
  · obtain ⟨-, hdir, hlvl, -⟩ := runProgram_failed (s := s.accept i) ha hfailed
    rw [State.takeAbort] at hwf' ⊢
    refine ⟨hwf', betweenOps_respond _ _, fun _ => NoLevels.respond ⟨hdir, hlvl⟩ _, ?_, ?_⟩ <;>
      rw [State.respond_aborted, hfailed] <;> exact fun hn => nomatch hn
  · have hinited := afterRun_inited hop ha hc hran
    refine ⟨hwf', betweenOps_respond _ _, ?_, ?_, fun _ _ => IdleLines.respond ?_ r⟩
    · rw [State.respond_aborted, hran]
      exact fun hn => nomatch hn
    · rw [State.respond_inited, hinited]
      exact fun _ hn => nomatch hn
    by_cases hi : i = .init
    · subst hi
      exact afterRun_init_idleLines ha hwf (hunbuilt ha (admission_init.mp hc).2) hran
    · exact afterRun_idleLines hi ha (hlines ha (inited_of_admission hop hi hc)) hran

/-- Settles O37: an idle block waits, uses a function, refuses, or runs an operation. -/
theorem stepKeepsTheIdleInvariant : Obligations.StepKeepsTheIdleInvariant := by
  intro s t h hstep
  obtain ⟨hwf, hbetween, haborted, hunbuilt, hlines⟩ := id h
  obtain ⟨hidle, hbusy, -⟩ := id hbetween
  obtain ⟨-, ⟨op, k, hq, -⟩ | ⟨hq, d, x, -, rfl⟩ | ⟨-, -, -, rfl⟩ | ⟨-, -, r, rest, -, hserved⟩⟩ := step_cases hstep
  · rw [hidle] at hq
    cases hq
  · exact ⟨hwf, ⟨hidle, hbusy, rfl, rfl, rfl, rfl, rfl, rfl, rfl, rfl⟩, haborted, hunbuilt, hlines⟩
  · exact h
  · rcases hserved with ⟨i, hi, hexec⟩ | ⟨-, -, rfl⟩
    · exact exec_keeps_idleInv (s := { s with requests := rest }) (request_isOperation hi) h hexec
    · exact ⟨hwf, hbetween, haborted, hunbuilt, hlines⟩

/-! ### The line discipline -/

/-- The drives of a run alternate with those before it as those of its whole program do, where it fails too. -/
theorem isChain_drivesOf_afterRun {i : Instr} {s : State} (ha : s.aborted = false) (r : OutRole)
    (h : (drivesOf r s.trace ++ portDrives r (portsOf (programOf s.config i))).IsChain (· ≠ ·)) :
    (drivesOf r (s.afterRun i).trace).IsChain (· ≠ ·) := by
  obtain ⟨es, left, htrace, hports, -⟩ := afterRun_events i ha
  rw [← hports, portDrives_append, ← drivesOf_eq_portDrives, ← List.append_assoc, ← drivesOf_append, ← htrace] at h
  exact h.left_of_append

theorem afterRun_lineDiscipline {i : Instr} {s : State} (hop : i.isOperation = true) (ha : s.aborted = false)
    (hc : admission i s = none) (hinv : IdleInv s) (h : LineDiscipline s) : LineDiscipline (s.afterRun i) := by
  obtain ⟨hwf, -, -, hunbuilt, hlines⟩ := hinv
  obtain ⟨hclk, hcs⟩ := h
  by_cases hi : i = .init
  · subst hi
    obtain ⟨htrace, -, -⟩ := hunbuilt ha (admission_init.mp hc).2
    refine ⟨isChain_drivesOf_afterRun ha .clk ?_, isChain_drivesOf_afterRun ha .cs ?_⟩
    · rw [htrace, clk_init hwf]
      exact isChain_append_pulses (l := [false]) (b := true) (.singleton _) rfl 16
    · rw [htrace, cs_init hwf]
      exact isChain_append_pulses (l := [true]) (b := false) (.singleton _) rfl 1
  · obtain ⟨hcs0, hclk0, -, -, hcsl, hclkl, -⟩ := hlines ha (inited_of_admission hop hi hc)
    refine ⟨isChain_drivesOf_afterRun ha .clk ?_, isChain_drivesOf_afterRun ha .cs ?_⟩
    · rw [clk_programOf hi]
      exact isChain_append_pulses (b := true) hclk (hclkl.symm.trans hclk0) _
    · rw [cs_programOf hi]
      exact isChain_append_pulses (b := false) hcs (hcsl.symm.trans hcs0) _

theorem LineDiscipline.respond {s : State} (h : LineDiscipline s) (r : Response) : LineDiscipline (s.respond r) := h

theorem exec_keeps_lineDiscipline {i : Instr} {s t : State} (hop : i.isOperation = true) (hinv : IdleInv s)
    (h : LineDiscipline s) (hexec : exec i s = .next t) : LineDiscipline t := by
  obtain ⟨ha, -, ⟨why, -, rfl⟩ | ⟨hc, -, rfl⟩ | ⟨hc, -, r, -, -, rfl⟩⟩ := exec_operation_cases hop hexec
  · exact h
  · exact (afterRun_lineDiscipline hop ha hc hinv h).respond .abort
  · exact (afterRun_lineDiscipline hop ha hc hinv h).respond r

/-- Settles O38: between operations clock and chip-select are at rest, and an operation pulses them. -/
theorem stepKeepsTheLineDiscipline : Obligations.StepKeepsTheLineDiscipline := by
  intro s t hinv h hstep
  obtain ⟨-, ⟨hidle, -⟩, -⟩ := id hinv
  obtain ⟨-, ⟨op, k, hq, -⟩ | ⟨-, d, x, -, rfl⟩ | ⟨-, -, -, rfl⟩ | ⟨-, -, r, rest, -, hserved⟩⟩ := step_cases hstep
  · rw [hidle] at hq
    cases hq
  · exact h
  · exact h
  · rcases hserved with ⟨i, hi, hexec⟩ | ⟨-, -, rfl⟩
    · exact exec_keeps_lineDiscipline (s := { s with requests := rest }) (request_isOperation hi) hinv h hexec
    · exact h

/-- Settles O36: before construction nothing has been driven. -/
theorem resetMeetsTheInvariant : Obligations.ResetMeetsTheInvariant :=
  ⟨⟨by decide, ⟨rfl, rfl, rfl, rfl, rfl, rfl, rfl, rfl, rfl, rfl⟩, by simp [State.reset], fun _ _ => ⟨rfl, rfl, rfl⟩,
    by simp [State.reset]⟩, .nil, .nil⟩

/-- Settles O59: the three driven roles are outputs (R41), so the pads show their levels. -/
theorem padsBetweenOperations : Obligations.PadsBetweenOperations := by
  intro s hinv hinited ha
  obtain ⟨-, -, -, -, hlines⟩ := hinv
  obtain ⟨hcs, hclk, hdir, hmosi, -, -, hmosil⟩ := hlines ha hinited
  simp only [State.padLevel, hdir, if_true]
  exact ⟨hcs, hclk, hmosil, hmosi⟩

end Sys2Proof.Machine
end

section
/-! SUPPORT. The frames on the wires (30_encoding.md R80 to R85), what an observer of the wires makes of them (log 13),
and the premises on the chip (20_memory.md R57 to R61; log 19). -/

namespace Sys2Proof.Machine

/-! ### The bits of a frame -/

theorem mosi_send (v : Byte) : drivesOf .mosi (sendEvents v) = wireBits v := rfl

theorem mosi_recv (ls : List Level) : drivesOf .mosi (recvEvents ls) = [] := by
  induction ls with
  | nil => rfl
  | cons b ls ih => exact ih

theorem samplesOf_recvEvents (ls : List Level) : samplesOf (recvEvents ls) = ls := by
  induction ls with
  | nil => rfl
  | cons b ls ih => exact congrArg (b :: ·) ih

/-- The MOSI bits of a write frame are its two bytes (R83). -/
theorem mosi_writeEvents (a : Address) (v : Byte) :
    drivesOf .mosi (writeEvents a v) = wireBits (writeCommand a) ++ wireBits v := rfl

/-- The MOSI bits of a read frame are its command byte (R84). -/
theorem mosi_readEvents (a : Address) (ls : List Level) :
    drivesOf .mosi (readEvents a ls) = wireBits (readCommand a) := by
  simp only [readEvents, drivesOf_append, mosi_recv, mosi_send]
  rfl

theorem samplesOf_readEvents (a : Address) (ls : List Level) : samplesOf (readEvents a ls) = ls := by
  simp only [readEvents, samplesOf_append, samplesOf_recvEvents]
  exact List.append_nil ls

theorem wireBits_eq_map (v : Byte) : wireBits v = (List.range 8).map fun j => v.getLsbD (7 - j) := rfl

/-- The write command is `1000aaaa` (R82). -/
theorem writeCommand_eq_append (a : Address) : writeCommand a = (0b1000 : BitVec 4) ++ a := by
  revert a
  decide

/-- The read command is `0000aaaa` (R82). -/
theorem readCommand_eq_append (a : Address) : readCommand a = (0b0000 : BitVec 4) ++ a := by
  revert a
  decide

/-- Two bytes on the wire are the 16 bits of their concatenation, most significant first (R81). -/
theorem wireBits_append (x y : Byte) :
    wireBits x ++ wireBits y = (List.range 16).map fun j => (x ++ y).getLsbD (15 - j) := by
  rw [show List.range 16 = List.range 8 ++ (List.range 8).map (8 + ·) from rfl, List.map_append, List.map_map,
    wireBits_eq_map, wireBits_eq_map]
  refine congrArg₂ (· ++ ·) (List.map_congr_left fun j hj => ?_) (List.map_congr_left fun j hj => ?_)
  · have hj8 := List.mem_range.mp hj
    rw [BitVec.getLsbD_append, if_neg (by omega), show 15 - j - 8 = 7 - j by omega]
  · have hj8 := List.mem_range.mp hj
    rw [Function.comp_apply, BitVec.getLsbD_append, if_pos (by omega), show 15 - (8 + j) = 7 - j by omega]

/-- Settles O49: a frame's MOSI bits are its bytes in wire order. -/
theorem frameBitsOnMosi : Obligations.FrameBitsOnMosi := by
  refine ⟨fun a v => ?_, fun a ls => ⟨?_, samplesOf_readEvents a ls⟩, samplesOf_writeEvents⟩
  · rw [mosi_writeEvents, writeCommand_eq_append, wireBits_append]
  · rw [mosi_readEvents, readCommand_eq_append, wireBits_eq_map]

/-- Settles O50: each bit is driven between a rising and a falling edge (R80). -/
theorem sentBitsAtClockEdges : Obligations.SentBitsAtClockEdges := fun _ _ => ⟨rfl, rfl⟩

/-! ### The residual level of MOSI -/

/-- A sent byte stands on MOSI at its falling edges, and its last bit stays (R70, R120). -/
theorem mosiAtEdges_send (now : Option Level) (v : Byte) (es : List Event) :
    mosiAtEdges false now (sendEvents v ++ es) =
      (wireBits v).map some ++ mosiAtEdges false (some (v.getLsbD 0)) es := rfl

/-- While a frame receives, MOSI stays as it is (R120). -/
theorem mosiAtEdges_recv (now : Option Level) (ls : List Level) (es : List Event) :
    mosiAtEdges false now (recvEvents ls ++ es) = List.replicate ls.length now ++ mosiAtEdges false now es := by
  induction ls with
  | nil => rfl
  | cons b ls ih => exact congrArg (now :: ·) ih

theorem mosiAtEdges_readEvents (now : Option Level) (a : Address) (ls : List Level) :
    mosiAtEdges false now (readEvents a ls) =
      (wireBits (readCommand a)).map some ++ List.replicate ls.length (some ((readCommand a).getLsbD 0)) := by
  rw [readEvents, List.append_assoc, List.append_assoc]
  have hfirst : ∀ es, mosiAtEdges false now ([.drv .cs false] ++ es) = mosiAtEdges false now es := fun _ => rfl
  have hlast : ∀ now, mosiAtEdges false now [.drv .cs true] = [] := fun _ => rfl
  rw [hfirst, mosiAtEdges_send, mosiAtEdges_recv, hlast, List.append_nil]

theorem readCommand_bit_zero (a : Address) : (readCommand a).getLsbD 0 = a.getLsbD 0 := by
  rw [readCommand, BitVec.getLsbD_setWidth]
  rfl

/-- Settles O60: the levels each operation leaves, and those of a read frame's events. -/
theorem residualMosiLevel : Obligations.ResidualMosiLevel := by
  refine ⟨fun s t i l hs hc h hl => ?_, fun s t hs h => ?_, fun a ls now l hl => ?_⟩
  · obtain ⟨-, -, hinited, -⟩ := id hs
    cases hop : i.isOperation with
    | true =>
      obtain rfl := Host.Outcome.next.inj (h.symm.trans (exec_ready hs hop hc))
      cases i with
      | init => exact absurd rfl (ne_init_of_admission hc hinited)
      | sendbyte v | wrreg a v => exact (congrArg some (valueOf_bit_zero v)).trans hl.symm
      | rdregs a n => exact (congrArg some (addressOf_bit_zero a)).trans hl.symm
      | _ => exact hl.symm
    | false =>
      obtain ⟨raw, q, x, e⟩ := exec_function hop s
      obtain rfl := Host.Outcome.next.inj (h.symm.trans e)
      cases i with
      | dectc _ _ _ | deccj _ _ _ | faultsel _ => exact hl.symm
      | _ => cases hop
  · obtain rfl := Host.Outcome.next.inj (h.symm.trans (exec_init hs))
    rfl
  · rw [mosiAtEdges_readEvents, List.drop_left' (by rfl), readCommand_bit_zero] at hl
    exact (List.mem_replicate.mp hl).2

/-! ### What an observer sees sent -/

/-- Events that an observer sees as no write to any register. -/
def SendsNothing (es : List Event) : Prop := ∀ w : Wires, (observeAll w es).sent = w.sent

theorem sendsNothing_of_no_cs {es : List Event} (h : drivesOf .cs es = []) : SendsNothing es :=
  fun w => (observeAll_no_cs es h w).1

theorem sendsNothing_readEvents (a : Address) (ls : List Level) : SendsNothing (readEvents a ls) :=
  fun w => observeAll_read w a ls

theorem SendsNothing.append {es fs : List Event} (hes : SendsNothing es) (hfs : SendsNothing fs) :
    SendsNothing (es ++ fs) := fun w => by
  rw [observeAll_append, hfs, hes]

/-- A trace that goes on without a write leaves every location (log 13). -/
theorem remoteByte_of_sendsNothing {s t : State} {es : List Event} (h : t.trace = s.trace ++ es)
    (hes : SendsNothing es) (b : Address) : t.remoteByte b = s.remoteByte b := by
  rw [State.remoteByte, State.remoteSent, h, observeAll_append, hes]
  rfl

/-- A trace that goes on with one write frame has its value in its register and leaves the other locations (R60). -/
theorem remoteByte_of_write {s t : State} {a : Address} {v : Byte} {es : List Event}
    (h : t.trace = s.trace ++ (writeEvents a v ++ es)) (hes : SendsNothing es) :
    t.remoteByte a = some v ∧ ∀ b, b ≠ a → t.remoteByte b = s.remoteByte b := by
  have hsent : t.remoteSent = remoteWrite s.remoteSent a v := by
    rw [State.remoteSent, h, observeAll_append, observeAll_append, hes, observeAll_write]
    rfl
  refine ⟨?_, fun b hb => ?_⟩
  · rw [State.remoteByte, hsent, remoteRead_write_same]
  · rw [State.remoteByte, hsent, remoteRead_write_other _ _ hb]
    rfl

/-- Settles O51: WRREG's events are one write frame. -/
theorem wrregReachesItsRegisterOnly : Obligations.WrregReachesItsRegisterOnly := by
  intro s t a v hs ha hv h
  obtain ⟨-, -, hinited, -⟩ := id hs
  obtain rfl := Host.Outcome.next.inj
    (h.symm.trans (exec_ready hs rfl (admission_wrreg.mpr ⟨hinited, ha, hv⟩)))
  exact remoteByte_of_write (es := []) (by rw [List.append_nil]; rfl) (sendsNothing_of_no_cs rfl)

/-- An instruction on a ready block adds its events, or none where it is refused or a function. -/
theorem exec_ready_trace {i : Instr} {s t : State} (hs : Ready s) (h : exec i s = .next t) :
    t.trace = s.trace ++ [] ∨ t.trace = s.trace ++ eventsOf s i := by
  obtain ⟨-, raw, q, x, rfl⟩ | ⟨hop, -, -, ⟨why, -, rfl⟩ | ⟨hc, -⟩⟩ := exec_cases h
  · exact .inl (List.append_nil _).symm
  · exact .inl (List.append_nil _).symm
  · exact .inr (congrArg State.trace (Host.Outcome.next.inj (h.symm.trans (exec_ready hs hop hc))))

/-- No set-up request asserts chip-select, so an observer sees no transaction end (R141). -/
theorem observeAll_setup {ps : List Port} (hps : .drv .cs false ∉ ps) {w : Wires} (hw : w.cs ≠ some false) :
    (observeAll w (ps.flatMap setupEvent)).sent = w.sent := by
  induction ps generalizing w with
  | nil => rfl
  | cons p ps ih =>
    obtain ⟨hhead, htail⟩ := not_or.mp (List.mem_cons.not.mp hps)
    have hp : (observeAll w (setupEvent p)).sent = w.sent ∧ (observeAll w (setupEvent p)).cs ≠ some false := by
      cases p with
      | drv r l =>
        cases r with
        | cs =>
          cases l with
          | false => exact absurd rfl hhead
          | true => exact ⟨if_neg hw, by simp [setupEvent, observeAll, observe]⟩
        | clk | mosi => exact ⟨rfl, hw⟩
      | _ => exact ⟨rfl, hw⟩
    rw [List.flatMap_cons, observeAll_append, ih htail hp.2, hp.1]

theorem setup_no_cs_low {c : Config} (h : c.wf = true) : Port.drv .cs false ∉ c.initOrder := by
  simp only [Config.wf, Bool.and_eq_true] at h
  obtain ⟨⟨⟨hperm, -⟩, -⟩, -⟩ := h
  rw [(List.isPerm_iff.mp hperm).mem_iff]
  decide

/-- After INIT of an unbuilt block one location has been written (R142). -/
theorem remoteSent_init {c : Config} (h : c.wf = true) :
    (observeAll wiresStart (initEvents c)).sent = remoteWrite [] Config.cr1Addr Config.cr1Value := by
  rw [initEvents, observeAll_append, observeAll_write, observeAll_setup (setup_no_cs_low h) (by decide)]
  rfl

/-- Settles O52: REQCONV, RDCJ and RDTC begin with their one write frame, and INIT's set-up is no transaction. -/
theorem otherOperationsReachTheirRegistersOnly : Obligations.OtherOperationsReachTheirRegistersOnly := by
  refine ⟨fun i s t hs h hi b => ?_, fun i s t hs h hi => ?_, fun s t hs hinv h => ?_⟩
  · have hevents : SendsNothing (eventsOf s i) := by
      cases i with
      | sendbyte v => exact sendsNothing_of_no_cs (drivesOf_send_cs _)
      | recvbyte => exact sendsNothing_of_no_cs (drivesOf_recv_cs _)
      | rdregs a n => exact sendsNothing_readEvents _ _
      | dectc _ _ _ | deccj _ _ _ | faultsel _ => exact sendsNothing_of_no_cs rfl
      | _ => exact hi.elim
    rcases exec_ready_trace hs h with htrace | htrace
    · exact remoteByte_of_sendsNothing htrace (sendsNothing_of_no_cs rfl) b
    · exact remoteByte_of_sendsNothing htrace hevents b
  · have hwait : SendsNothing [.wait s.config.convDelayMs] := sendsNothing_of_no_cs rfl
    have hread : ∀ a ls, SendsNothing ([.wait s.config.convDelayMs] ++ readEvents a ls) :=
      fun a ls => hwait.append (sendsNothing_readEvents a ls)
    cases i with
    | reqconv =>
      obtain rfl := Host.Outcome.next.inj (h.symm.trans (exec_reqconv hs))
      exact remoteByte_of_write rfl hwait
    | rdcj =>
      obtain rfl := Host.Outcome.next.inj (h.symm.trans (exec_rdcj hs))
      exact remoteByte_of_write (by simp only [reqconvEvents, List.append_assoc]; rfl)
        (hread Config.cjAddr (s.levels 24))
    | rdtc =>
      obtain rfl := Host.Outcome.next.inj (h.symm.trans (exec_rdtc hs))
      exact remoteByte_of_write (by simp only [reqconvEvents, List.append_assoc]; rfl)
        (hread Config.tcAddr (s.levels 32))
    | _ => exact hi.elim
  · obtain ⟨ha, -, hinited, -, -, hwf⟩ := id hs
    obtain ⟨-, -, -, hunbuilt, -⟩ := hinv
    obtain ⟨hempty, -, -⟩ := hunbuilt ha hinited
    obtain rfl := Host.Outcome.next.inj (h.symm.trans (exec_init hs))
    rw [hempty, List.nil_append]
    simp only [State.remoteByte, State.remoteSent, remoteSent_init hwf]
    exact ⟨remoteRead_write_same _ _ _, fun b hb => remoteRead_write_other _ _ hb⟩

/-! ### The canonical form -/

theorem commitFrame_wf (frame : List Level) {m : RemoteMemory} (h : m.wf = true) : (commitFrame frame m).wf = true := by
  rw [commitFrame]
  split
  · exact remoteWrite_wf h _ _
  · exact h

theorem observe_wf {w : Wires} (h : w.sent.wf = true) (e : Event) : (observe w e).sent.wf = true := by
  cases e with
  | drv r l =>
    cases r with
    | cs =>
      cases l with
      | false => exact h
      | true =>
        simp only [observe]
        split
        · exact commitFrame_wf _ h
        · exact h
    | clk | mosi => exact h
  | _ => exact h

theorem observeAll_wf {w : Wires} (h : w.sent.wf = true) (es : List Event) : (observeAll w es).sent.wf = true := by
  induction es generalizing w with
  | nil => exact h
  | cons e es ih => exact ih (observe_wf h e)

/-- Settles O53: the observer starts from an empty space and only ever writes to it. -/
theorem remoteSpaceStaysCanonical : Obligations.RemoteSpaceStaysCanonical :=
  ⟨fun s => observeAll_wf (w := wiresStart) rfl s.trace, fun m a _ v h =>
    ⟨remoteWrite_wf h a v, remoteRead_write_same m a v, remoteRead_write_other m v⟩⟩

/-! ### The premises on the chip -/

/-- The address stands in the low bits of the write command (R82). -/
theorem setWidth_writeCommand (a : Address) : (writeCommand a).setWidth 4 = a := by
  revert a
  decide

theorem head?_wireBits_writeCommand (a : Address) : (wireBits (writeCommand a)).head? = some true := by
  revert a
  decide

theorem head?_wireBits_readCommand (a : Address) : (wireBits (readCommand a)).head? = some false := by
  revert a
  decide

/-- Under `ENV_WRITE` a write frame is a write of its value to its register (R60). -/
theorem envWrite_writeEvents (before after : Address → Byte) (a : Address) (v : Byte) :
    EnvWrite before after (drivesOf .mosi (writeEvents a v)) ↔ RegisterWrite before after a v := by
  have htake : (drivesOf .mosi (writeEvents a v)).take 8 = wireBits (writeCommand a) := rfl
  have hdrop : (drivesOf .mosi (writeEvents a v)).drop 8 = wireBits v := rfl
  have hhead : (drivesOf .mosi (writeEvents a v)).head? = some true := head?_wireBits_writeCommand a
  rw [EnvWrite, if_pos hhead, htake, hdrop, byteOfLevels_wireBits, byteOfLevels_wireBits,
    setWidth_writeCommand]

/-- A write to a register other than 0 changes that register only. -/
theorem registerWrite_iff_update {before after : Address → Byte} {a : Address} {v : Byte} (ha : a ≠ 0) :
    RegisterWrite before after a v ↔ after = Function.update before a v := by
  constructor
  · rintro ⟨hsame, -, hothers⟩
    funext b
    by_cases hb : b = a
    · rw [hb, hsame, Function.update_self]
    · rw [hothers b hb fun hzero => ha hzero.1, Function.update_of_ne hb]
  · rintro rfl
    exact ⟨Function.update_self .., fun hzero => absurd hzero ha, fun b hb _ => Function.update_of_ne hb ..⟩

/-- A write to register 0 may change register 15 too, and clears it where it is a request (R57). -/
theorem registerWrite_zero_iff {before after : Address → Byte} {v : Byte} :
    RegisterWrite before after 0 v ↔
      after 0 = v ∧ (v = 0x42 → after 15 = 0) ∧ ∀ b, b ≠ 0 → b ≠ 15 → after b = before b := by
  constructor
  · rintro ⟨hsame, hclear, hothers⟩
    exact ⟨hsame, hclear rfl, fun b hb hb' => hothers b hb fun hfault => hb' hfault.2⟩
  · rintro ⟨hsame, hclear, hothers⟩
    exact ⟨hsame, fun _ => hclear, fun b hb hb' => hothers b hb fun hfault => hb' ⟨rfl, hfault⟩⟩

/-- Settles O56: the frame of WRREG is a write, that of a read is none. -/
theorem framesUnderEnvWrite : Obligations.FramesUnderEnvWrite := by
  refine ⟨fun before after a v ha => ?_, fun before after v => ?_, fun before after a ls => ?_⟩
  · rw [envWrite_writeEvents, registerWrite_iff_update ha]
  · rw [envWrite_writeEvents, registerWrite_zero_iff]
  · rw [mosi_readEvents, EnvWrite, if_neg (by rw [head?_wireBits_readCommand]; decide)]

/-- Where a request's frame ends the fault status is clear (R57). -/
theorem faultStatus_of_envRequest {contents : List Event → Address → Byte} (h : EnvRequest contents)
    (before : List Event) : contents (before ++ writeEvents 0 0x42) 15 = 0 := by
  obtain ⟨regs, hwrite⟩ := h before
  obtain ⟨-, hclear, -⟩ := registerWrite_zero_iff.mp ((envWrite_writeEvents _ _ _ _).mp hwrite)
  exact hclear rfl

/-- A conversion request begins with the write of `0x42` to register 0 (R144). -/
theorem request_begins_reqconvEvents (c : Config) (trace later : List Event) :
    trace ++ writeEvents 0 0x42 <+: trace ++ (reqconvEvents c ++ later) := by
  refine List.prefix_append_right_inj trace |>.mpr ?_
  rw [reqconvEvents, List.append_assoc]
  exact List.prefix_append _ _

/-- Settles O57: each of the four begins with the request's frame. -/
theorem eachRequestClearsTheFaultStatus : Obligations.EachRequestClearsTheFaultStatus := by
  intro contents s hs henv
  obtain ⟨ha, -, hinited, hf⟩ := id hs
  refine ⟨fun i hi => ?_, _, _, exec_rdcj hs, exec_rdtc ⟨ha, rfl, hinited, hf⟩, request_begins_reqconvEvents _ _ _,
    faultStatus_of_envRequest henv _, request_begins_reqconvEvents _ _ _, faultStatus_of_envRequest henv _⟩
  have hclear := faultStatus_of_envRequest henv s.trace
  cases i with
  | reqconv =>
    exact ⟨_, exec_reqconv hs, by simpa using request_begins_reqconvEvents s.config s.trace [], hclear⟩
  | rdcj => exact ⟨_, exec_rdcj hs, request_begins_reqconvEvents _ _ _, hclear⟩
  | rdtc => exact ⟨_, exec_rdtc hs, request_begins_reqconvEvents _ _ _, hclear⟩
  | wrreg a v =>
    obtain ⟨rfl, rfl⟩ := hi
    exact ⟨_, exec_ready hs rfl (admission_wrreg.mpr ⟨hinited, by decide, by decide⟩), List.prefix_rfl, hclear⟩
  | _ => exact hi.elim

/-- Under `ENV_AUTOINC`, with registers 9 to 15 the results of a conversion, the byte received for a register is its
result (R61). -/
theorem nextByte_of_results {regs results : Address → Byte} {start a : Address} {n k : Nat} {s : State}
    (henv : EnvAutoinc regs start n s) (hregs : ∀ a : Address, 9 ≤ a.toNat → regs a = results a) (hk : k < n)
    (ha : a.toNat = start.toNat + k) (hlow : 9 ≤ a.toNat) : s.nextByte k = results a := by
  rw [nextByte_of_envAutoinc henv hk (ha ▸ a.isLt), ← ha, BitVec.ofNat_toNat, BitVec.setWidth_eq, hregs a hlow]

/-- After a request and a delay of 200 ms registers 9 to 15 are the conversion's results (R61). -/
theorem results_after_delay {chip results : List Event → Address → Byte} (h : EnvConv chip results)
    {trace : List Event} {ms : Nat} (hms : 200 ≤ ms) (a : Address) (ha : 9 ≤ a.toNat) :
    chip (trace ++ writeEvents 0 0x42 ++ [.wait ms]) a = results (trace ++ writeEvents 0 0x42) a :=
  h trace [.wait ms] _ rfl (.wait ms .nil) hms a ha

/-- Settles O55: the bytes each read receives are the results of the conversion its request asked for. -/
theorem readsUnderChipPremises : Obligations.ReadsUnderChipPremises := by
  intro chip results s request hs hbitset hdelay hconv hrequest
  subst hrequest
  have hresults := results_after_delay hconv (trace := s.trace) hdelay
  obtain ⟨haborted, -, hinited, hport⟩ := id hs
  refine ⟨fun henv => ⟨_, exec_rdtc hs, ?_⟩, fun henv => ⟨_, exec_rdcj hs, ?_⟩, fun a n ha hn hlast hmax =>
    ⟨_, exec_reqconv hs, fun henv => ⟨_, exec_rdregs ⟨haborted, rfl, hinited, hport⟩ (by omega) hn hmax, ?_⟩⟩⟩
  · rw [nextByte_of_results (a := 12) henv hresults (by decide) rfl (by decide),
      nextByte_of_results (a := 13) henv hresults (by decide) rfl (by decide),
      nextByte_of_results (a := 14) henv hresults (by decide) rfl (by decide),
      nextByte_of_results (a := 15) henv hresults (by decide) rfl (by decide), hbitset]
    refine ⟨fun hzero => ?_, fun k hk => ?_⟩
    · rw [tcResponse_of_no_fault ((faultSel_bitset_eq_none_iff _).mpr hzero)]
    · rw [tcResponse_of_fault hk]
  · rw [nextByte_of_results (a := 9) henv hresults (by decide) rfl (by decide),
      nextByte_of_results (a := 10) henv hresults (by decide) rfl (by decide),
      nextByte_of_results (a := 11) henv hresults (by decide) rfl (by decide)]
  · have htrace : s.trace ++ reqconvEvents s.config =
        s.trace ++ writeEvents 0 0x42 ++ [.wait s.config.convDelayMs] := (List.append_assoc ..).symm
    simp only [htrace] at henv ⊢
    refine congrArg (fun bs => _ ++ [Response.okBytes bs]) (List.map_congr_left fun k hk => ?_)
    have hk := List.mem_range.mp hk
    have hstart : (BitVec.ofNat 4 a).toNat = a := Nat.mod_eq_of_lt (by omega)
    have hreg : (BitVec.ofNat 4 (a + k)).toNat = a + k := Nat.mod_eq_of_lt (by omega)
    exact nextByte_of_results henv hresults hk (by rw [hreg, hstart]) (by omega)

end Sys2Proof.Machine
end
